-- ==== Sys2Proof/Word.lean ====
section
/-! DEFINITION. The word types of the block: bytes, line levels, command words, event words. -/

namespace Sys2Proof

/-- One byte: the shift register, a queue slot, an error counter (10_state.md R11, R19, R23, R24). -/
abbrev Byte := BitVec 8

/-- A level of the serial line on one tick: `false` is low (`0`), `true` is high (`1`) (00_scope.md R8). -/
abbrev Level := Bool

/-- The consumer's command word `cmd[2:0]` (30_encoding.md R47). -/
abbrev CmdWord := BitVec 3

/-- The event word `ev[3:0]` (30_encoding.md R49). -/
abbrev EventWord := BitVec 4

end Sys2Proof
end

