-- ==== Sys2Proof/Config.lean ====
section
/-! DEFINITION. The build-time parameters of the block, and the one value the spec leaves free. -/

namespace Sys2Proof

/-- The implementation parameters (00_scope.md R2, R4, R5): constants of one block, fixed when it is
built. The machine's state carries them unchanged, so every claim about every state holds for every
choice of them (log entry 1, DESIGN CHOICE). -/
structure Config where
  /-- `K`: the queue holds `2^K` bytes (R2). -/
  k : Nat
  /-- `BIT_TICKS` (`P`): ticks in one bit period (R5). -/
  bitTicks : Nat
  /-- `FIRST_TICKS` (`F`): ticks from the start edge to the first data sample (R5). -/
  firstTicks : Nat
  /-- `TW`: width in bits of the timer counter (R5). -/
  tw : Nat
  deriving DecidableEq, Repr

namespace Config

/-- `CAP = 2^K`, the queue's capacity in bytes (00_scope.md R2). -/
def cap (c : Config) : Nat := 2 ^ c.k

/-- `RW = max(8, K + 1)`, the width of the response bus (00_scope.md section 4). -/
def rw (c : Config) : Nat := max 8 (c.k + 1)

/-- What `State.reset` carries: the default capacity 32 and the timing of the source's only example,
`P = 833`, `F = P + floor(P/2) = 1249`, and the smallest timer width that fits (00_scope.md R5;
log entry 1, DESIGN CHOICE: no rule of the spec fixes `P` or `F`). -/
def sourceExample : Config := { k := 5, bitTicks := 833, firstTicks := 1249, tw := 11 }

/-- FREE VALUE: what slot `i` of the queue memory holds before any push has written it
(10_state.md R19: "unspecified"; 93_implementation_defined.md V4: "any value"; log entry 4). -/
opaque unwrittenByte : Nat → BitVec 8

end Config

end Sys2Proof
end

