-- ==== Sys2Proof/Syntax.lean ====
section
/-! DEFINITION. The instructions: one constructor for each row of spec/opcode_table.json. -/

namespace Sys2Proof

/-- One event of the event machine (00_scope.md R6): a clock tick with its line level, or one of the
seven consumer commands. -/
inductive Instr where
  /-- `TICK`: one clock tick, carrying the level of `rx` (44_receiver_controller.md R93). -/
  | tick (rx : Level)
  /-- `NOP` (R96). -/
  | nop
  /-- `BEGIN` (R97). -/
  | begin
  /-- `AVAIL` (40_byte_queue.md R61). -/
  | avail
  /-- `READ` (R62). -/
  | read
  /-- `OVF` (R63). -/
  | ovf
  /-- `FERRC` (43_frame_validator.md R86). -/
  | ferrc
  /-- `BRKC` (R87). -/
  | brkc
  deriving DecidableEq, Repr

end Sys2Proof
end

