-- ==== Sys2Proof/Decode.lean ====
section
/-! DEFINITION. Decoding and encoding of command words and event words. -/

namespace Sys2Proof

/-- Why a word is no instruction (30_encoding.md R51). -/
inductive DecodeError where
  /-- The reserved command code `111`. -/
  | reservedCommand (cmd : CmdWord)
  /-- An event word that is no event: `0010` .. `0111` and `1111`. -/
  | reservedEvent (w : EventWord)
  deriving DecidableEq, Repr

/-- The command codes of 30_encoding.md R48; `111` is reserved and refused by name (R51). -/
def decodeCmd (c : CmdWord) : Except DecodeError Instr :=
  if c = 0b000#3 then .ok .nop
  else if c = 0b001#3 then .ok .begin
  else if c = 0b010#3 then .ok .avail
  else if c = 0b011#3 then .ok .read
  else if c = 0b100#3 then .ok .ovf
  else if c = 0b101#3 then .ok .ferrc
  else if c = 0b110#3 then .ok .brkc
  else .error (.reservedCommand c)

/-- The decoder of 30_encoding.md section 3: if `ev[3] = 0` then require `ev[2:1] = 00` and produce
`Tick(ev[0])`, else look up `ev[2:0]` in R48; everything not matched is reserved (R49, R51). -/
def decode (w : EventWord) : Except DecodeError Instr :=
  if w.getLsbD 3 = false then
    if w.extractLsb' 1 2 = 0b00#2 then .ok (.tick (w.getLsbD 0))
    else .error (.reservedEvent w)
  else
    match decodeCmd (w.extractLsb' 0 3) with
    | .ok i => .ok i
    | .error _ => .error (.reservedEvent w)

/-- The command code of a command (30_encoding.md R48); a tick is no command and has none. -/
def encodeCmd : Instr → Option CmdWord
  | .tick _ => none
  | .nop => some 0b000#3
  | .begin => some 0b001#3
  | .avail => some 0b010#3
  | .read => some 0b011#3
  | .ovf => some 0b100#3
  | .ferrc => some 0b101#3
  | .brkc => some 0b110#3

/-- The event word of an event (30_encoding.md R49): `000r` for a tick, `1ccc` for a command. -/
def encode : Instr → EventWord
  | .tick r => (0b000#3).concat r
  | .nop => 0b1000#4
  | .begin => 0b1001#4
  | .avail => 0b1010#4
  | .read => 0b1011#4
  | .ovf => 0b1100#4
  | .ferrc => 0b1101#4
  | .brkc => 0b1110#4

/-- A word of spec/opcode_table.json as an event word: the low `nbits` bits of `w` if they are a number
of four bits; a larger number is no event word and is offered as the reserved word `1111`
(log entry 7, DESIGN CHOICE). -/
def tableEventWord (nbits w : Nat) : EventWord :=
  if w % 2 ^ nbits < 16 then BitVec.ofNat 4 (w % 2 ^ nbits) else 0b1111#4

/-- The instruction the decoder reads from an instruction whose bits are `w`, numbered as
spec/opcode_table.json numbers them. -/
def decodeTableWord (nbits w : Nat) : Option Instr :=
  (decode (tableEventWord nbits w)).toOption

end Sys2Proof
end

