-- ==== Sys2Proof/Machine/State.lean ====
section
/-! DEFINITION. The state of the block (10_state.md), its outcomes, and the state after reset. -/

namespace Sys2Proof.Machine

/-- The sequencer state, the source's `ReceiverState` (10_state.md R10). The binary code `11` cannot be
written down, as R10 asks of a model. -/
inductive ReceiverState where
  /-- "waiting for a start-bit edge"; code `00`. -/
  | idle
  /-- "timer is armed and clocking the shift register"; code `01`. -/
  | sampling
  /-- "the 8 data bits have been latched; waiting one more bit period to sample the stop bit"; code `10`. -/
  | validatingFrame
  deriving DecidableEq, Repr

/-- The response of one command: `rdata`, zero-extended to `RW` bits, and `rvalid` (30_encoding.md R47).
`rdata` is held as the number on the bus (log entry 3). -/
structure Response where
  rdata : Nat
  rvalid : Bool
  deriving DecidableEq, Repr

/-- One thing the environment does to the block (log entry 2). -/
inductive Input where
  /-- An event of the event machine of 00_scope.md R6, as its event word (30_encoding.md R49). -/
  | event (w : EventWord)
  /-- A rising clock edge of the port-level view (00_scope.md R7, 70_reset_and_hazards.md R120): the
  levels of `rst`, `rx` and the command port on that edge. -/
  | edge (rst : Bool) (rx : Level) (cmd : CmdWord)
  deriving DecidableEq, Repr

/-- The queue memory `buf` (10_state.md R19): its written slots as (index, byte) pairs, indices strictly
rising. A slot that no push has written is not listed: it has no value (log entry 4). -/
abbrev Memory := List Host.Cell

/-- The canonical form of a memory: indices strictly rising. (An unlisted slot reads as no value, so no
listed entry can equal what an unlisted one reads as.) -/
abbrev Memory.wf (m : Memory) : Prop := m.Pairwise (fun c d => c.1 < d.1)

/-- The whole state: the fifteen elements of 10_state.md section 1 under the spec's own names, then the
parameters, the last response driven, and what the environment still offers. -/
structure State where
  /-- R10. -/
  state : ReceiverState
  /-- R11: the shift register. -/
  sr : Byte
  /-- R12: data bits shifted into `sr` in this frame. -/
  bitcnt : BitVec 4
  /-- R13: the start-bit detector is armed. -/
  edge_en : Bool
  /-- R14: a compare event shifts one bit into `sr`. -/
  sr_clk_en : Bool
  /-- R15: a compare event runs `validate`. -/
  tmr_ie : Bool
  /-- R16: the bit timer counts. -/
  tmr_run : Bool
  /-- R17: ticks to go until the next compare event, a natural number as D28 allows (log entry 6). -/
  tcnt : Nat
  /-- R18: the level of `rx` on the previous tick. -/
  rx_prev : Level
  /-- R19: the queue memory. -/
  buf : Memory
  /-- R20: index of the oldest unread byte. -/
  head : Nat
  /-- R21: number of bytes in the queue. -/
  count : Nat
  /-- R22: a byte was dropped since the flag was last taken. -/
  overflowed : Bool
  /-- R23: framing errors, saturating. -/
  ferr_cnt : Byte
  /-- R24: break conditions, saturating. -/
  brk_cnt : Byte
  /-- The model's own: the parameters of this block, never written (R2, R4, R5; log entry 1). -/
  cfg : Config
  /-- The model's own: the response last driven on `rdata`, `rvalid`; `none` before any (log entry 3). -/
  resp : Option Response
  /-- The model's own: the events and clock edges still to come, oldest first (log entry 2). -/
  input : List Input
  deriving DecidableEq, Repr

/-- The faults: none. "The block raises no trap, fault or exception, synchronous or otherwise"
(60_exceptions.md R100). -/
inductive Fault where
  deriving DecidableEq, Repr

/-- Why a step has no meaning. -/
inductive Refusal where
  /-- Raised by `exec` for an instruction without a meaning yet (none is left). Safe. -/
  | notModelled (mnemonic : String)
  /-- Raised by `step` on an event word that is no event: `0010` .. `0111`, `1111`; "a model's decoder
  refuses it" (30_encoding.md R51). Safe. -/
  | reservedEvent (w : EventWord)
  /-- Raised by `step` on a clock edge with the reserved command code `111`; "a model refuses the code"
  (30_encoding.md R51). Safe. -/
  | reservedCommand (cmd : CmdWord)
  deriving DecidableEq, Repr

/-- The state right after reset of a block built with the parameters `c`: every element at the value of
70_reset_and_hazards.md R120, no slot of `buf` written, nothing answered, nothing offered. -/
def State.resetWith (c : Config) : State where
  state := .idle
  sr := 0x00#8
  bitcnt := 0#4
  edge_en := false
  sr_clk_en := false
  tmr_ie := false
  tmr_run := false
  tcnt := 0
  rx_prev := false
  buf := []
  head := 0
  count := 0
  overflowed := false
  ferr_cnt := 0#8
  brk_cnt := 0#8
  cfg := c
  resp := none
  input := []

/-- The machine right after reset (R120), with the default capacity and the timing of the source's
example (log entry 1). -/
def State.reset : State := State.resetWith Config.sourceExample

end Sys2Proof.Machine
end

