-- ==== Sys2Proof/Machine/Ops.lean ====
section
/-! DEFINITION. The shared operations: the queue memory, the bit timer, the response, reset.

Taking an exception is no operation of this block: "The block raises no trap, fault or exception"
(60_exceptions.md R100), and entering an event's handler "saves nothing and changes no mode: there is no
saved program counter, no status register to stack, no vector table and no handler address" (R105); there
is no return (R106). The three event sources (R101) are evaluated inside the tick (Controller.lean). -/

namespace Sys2Proof.Machine

/-- The byte a slot was last given by a push, or no value if none has written it (10_state.md R19). -/
def Memory.read : Memory → Nat → Option Byte
  | [], _ => none
  | (j, b) :: m, i => if i = j then some b else Memory.read m i

/-- Writes one slot and keeps the indices strictly rising. -/
def Memory.write : Memory → Nat → Byte → Memory
  | [], i, b => [(i, b)]
  | (j, c) :: m, i, b =>
    if i < j then (i, b) :: (j, c) :: m
    else if i = j then (i, b) :: m
    else (j, c) :: Memory.write m i b

/-- `MemRead(i, 1)`, that is `buf[i]` (00_scope.md R8). A slot no push has written holds an unspecified
byte: the free value (10_state.md R19; log entry 4). -/
def memRead (s : State) (i : Nat) : Byte := (Memory.read s.buf i).getD (Config.unwrittenByte i)

/-- `MemWrite(i, 1, b)`, that is `buf[i] <- b` (00_scope.md R8). -/
def memWrite (i : Nat) (b : Byte) (s : State) : State := { s with buf := Memory.write s.buf i b }

/-- The index in `buf` of queue position `j`: `(head + j) mod CAP` (10_state.md R19, 40_byte_queue.md R64). -/
def slotIndex (s : State) (j : Nat) : Nat := (s.head + j) % s.cfg.cap

/-- Where the next push stores: `(head + count) mod CAP` (40_byte_queue.md R60). -/
def pushIndex (s : State) : Nat := slotIndex s s.count

/-- `respond(d, v)`: ends a command with `rdata = zext_RW(d)`, `rvalid = v` (00_scope.md R8). Widening
with zeros keeps the number. -/
def respond (d : Nat) (v : Bool) (s : State) : State := { s with resp := some ⟨d, v⟩ }

/-- `timer_advance()`: runs first in every tick and says whether the tick is a compare event
(44_receiver_controller.md R91). -/
def timerAdvance (s : State) : Bool × State :=
  if s.tmr_run = false then (false, s)
  else if s.tcnt = 1 then (true, { s with tcnt := s.cfg.bitTicks })
  else (false, { s with tcnt := s.tcnt - 1 })

/-- `timer_stop()` (44_receiver_controller.md R92). -/
def timerStop (s : State) : State := { s with tmr_run := false, tcnt := 0 }

/-- `rx_prev <- rx`: every tick ends so (44_receiver_controller.md R93 step 3, 10_state.md R18). -/
def trackLine (rx : Level) (s : State) : State := { s with rx_prev := rx }

/-- Hardware reset, `rst = 1` on a clock edge (70_reset_and_hazards.md R120): every element to its reset
value, `buf` not written. No command has been answered since (log entry 3). -/
def hardReset (s : State) : State :=
  { s with
    state := .idle, sr := 0x00#8, bitcnt := 0#4,
    edge_en := false, sr_clk_en := false, tmr_ie := false, tmr_run := false, tcnt := 0,
    rx_prev := false,
    head := 0, count := 0, overflowed := false,
    ferr_cnt := 0#8, brk_cnt := 0#8,
    resp := none }

end Sys2Proof.Machine
end

