-- ==== Sys2Proof/Machine/Detector.lean ====
section
/-! DEFINITION. The start-bit detector (41_start_bit_detector.md). -/

namespace Sys2Proof.Machine

/-- `start_frame()`: what the detector does on a falling edge (41_start_bit_detector.md R71; all seven
writes its pseudocode lists, log entry 8). -/
def startFrame (s : State) : State :=
  { s with
    edge_en := false, tmr_run := true, tcnt := s.cfg.firstTicks,
    sr := 0x00#8, bitcnt := 0#4, sr_clk_en := true, state := .sampling }

/-- An edge event: armed, and the level differs from the previous tick's (41_start_bit_detector.md R70;
the caller has `state = Idle`). -/
def edgeEvent (rx : Level) (s : State) : Bool := s.edge_en && (rx != s.rx_prev)

/-- The `Idle` branch of a tick: a falling edge starts a frame, a rising edge is ignored
(41_start_bit_detector.md R70, R72). -/
def detectEdge (rx : Level) (s : State) : State :=
  if edgeEvent rx s = true then
    if rx = false then startFrame s else s
  else s

end Sys2Proof.Machine
end

