-- ==== Sys2Proof/Machine/Operands.lean ====
section
/-! DEFINITION. The operand and data forms of the block: entering a sample, assembling the data byte,
bit reversal. The block has no other operand form: "No command has an operand, an immediate, a register
field or a mode bit" (30_encoding.md R47). -/

namespace Sys2Proof.Machine

/-- `{ v[6:0], rx }`: shift left by one, the new bit enters at bit 0, the old bit 7 is lost
(42_bit_sampler.md R75). -/
def shiftSample (v : Byte) (rx : Level) : Byte := (v.setWidth 7).concat rx

/-- `raw` of a list of samples in the order taken, from a cleared register (30_encoding.md R50,
20_memory.md R31). -/
def rawOfSamples (ds : List Level) : Byte := ds.foldl shiftSample 0x00#8

/-- Swap adjacent bits (43_frame_validator.md R85, first line). -/
def swapBits (x : Byte) : Byte := ((x &&& 0x55#8) <<< 1) ||| ((x &&& 0xAA#8) >>> 1)

/-- Swap adjacent bit pairs (R85, second line). -/
def swapPairs (x : Byte) : Byte := ((x &&& 0x33#8) <<< 2) ||| ((x &&& 0xCC#8) >>> 2)

/-- Swap nibbles (R85, third line). -/
def swapNibbles (x : Byte) : Byte := ((x &&& 0x0F#8) <<< 4) ||| ((x &&& 0xF0#8) >>> 4)

/-- `rev8`, the source's `reverse_bit_order` (43_frame_validator.md R85). -/
def rev8 (x : Byte) : Byte := swapNibbles (swapPairs (swapBits x))

end Sys2Proof.Machine
end

