-- ==== Sys2Proof/Machine/Sampler.lean ====
section
/-! DEFINITION. The bit sampler (42_bit_sampler.md). -/

namespace Sys2Proof.Machine

/-- The completion event, in the tick of the eighth shift (42_bit_sampler.md R76). -/
def completeSampling (s : State) : State :=
  { s with sr_clk_en := false, tmr_ie := true, state := .validatingFrame }

/-- `shift_in(rx)` (42_bit_sampler.md R75). -/
def shiftIn (rx : Level) (s : State) : State :=
  let shifted := { s with sr := shiftSample s.sr rx, bitcnt := s.bitcnt + 1#4 }
  if s.bitcnt + 1#4 = 8#4 then completeSampling shifted else shifted

end Sys2Proof.Machine
end

