-- ==== Sys2Proof/Machine/Flags.lean ====
section
/-! DEFINITION. The status bits and counters: the sticky overflow flag and the two saturating error
counters. "The block has no arithmetic flags or predicates" (10_state.md section 4). -/

namespace Sys2Proof.Machine

/-- `sat_inc8(c)`: `c + 1` if `c < 255`, else `255` (00_scope.md R8). -/
def satInc8 (c : Byte) : Byte := if c.toNat < 255 then c + 1#8 else 255#8

/-- `overflowed <- 1` (10_state.md R22): set by `push` on a full queue only. -/
def setOverflowed (s : State) : State := { s with overflowed := true }

/-- `overflowed <- 0` (10_state.md R22): cleared by `OVF`. -/
def clearOverflowed (s : State) : State := { s with overflowed := false }

/-- A break condition is counted (43_frame_validator.md R83). -/
def countBreak (s : State) : State := { s with brk_cnt := satInc8 s.brk_cnt }

/-- A framing error is counted (43_frame_validator.md R84). -/
def countFramingError (s : State) : State := { s with ferr_cnt := satInc8 s.ferr_cnt }

end Sys2Proof.Machine
end

