-- ==== Sys2Proof/Machine/Queue.lean ====
section
/-! DEFINITION. The byte queue (40_byte_queue.md): `push`, and the commands AVAIL, READ, OVF. -/

namespace Sys2Proof.Machine

/-- What `push` returns; "The result is used by nobody" (40_byte_queue.md R60). -/
inductive PushResult where
  | ok
  | overflow
  deriving DecidableEq, Repr

/-- `push(b)`, internal to the receiver (40_byte_queue.md R60). -/
def push (b : Byte) (s : State) : PushResult × State :=
  if s.count < s.cfg.cap then
    (.ok, { memWrite (pushIndex s) b s with count := s.count + 1 })
  else (.overflow, setOverflowed s)

/-- The queue side of a successful `READ`: `head <- (head + 1) mod CAP`, `count <- count - 1`
(40_byte_queue.md R62). -/
def dropOldest (s : State) : State :=
  { s with head := (s.head + 1) % s.cfg.cap, count := s.count - 1 }

/-- `AVAIL` (40_byte_queue.md R61). -/
def execAvail (s : State) : Host.Outcome State Fault Refusal :=
  .next (respond s.count true s)

/-- `READ` (40_byte_queue.md R62). -/
def execRead (s : State) : Host.Outcome State Fault Refusal :=
  if s.count = 0 then .next (respond 0 false s)
  else .next (respond (memRead s s.head).toNat true (dropOldest s))

/-- `OVF` (40_byte_queue.md R63): the flag is read and cleared in one event. -/
def execOvf (s : State) : Host.Outcome State Fault Refusal :=
  .next (respond s.overflowed.toNat true (clearOverflowed s))

end Sys2Proof.Machine
end

