-- ==== Sys2Proof/Machine/Validator.lean ====
section
/-! DEFINITION. The frame validator (43_frame_validator.md), and the commands FERRC and BRKC. -/

namespace Sys2Proof.Machine

/-- Steps 3 to 5 of `validate`: a good frame is pushed, a break or a framing error is counted and its
byte discarded (43_frame_validator.md R82, R83, R84). -/
def judgeFrame (rx : Level) (raw : Byte) (s : State) : State :=
  if rx = true then (push (rev8 raw) s).2
  else if raw = 0x00#8 then countBreak s
  else countFramingError s

/-- Step 6 of `validate`: the detector is armed again, on every path (43_frame_validator.md R88). -/
def rearm (s : State) : State := { s with edge_en := true, state := .idle }

/-- `validate(rx)` (43_frame_validator.md R80, R81). -/
def validate (rx : Level) (s : State) : State :=
  rearm (judgeFrame rx s.sr (timerStop { s with tmr_ie := false }))

/-- `FERRC` (43_frame_validator.md R86): the read does not clear the counter. -/
def execFerrc (s : State) : Host.Outcome State Fault Refusal :=
  .next (respond s.ferr_cnt.toNat true s)

/-- `BRKC` (43_frame_validator.md R87): the read does not clear the counter. -/
def execBrkc (s : State) : Host.Outcome State Fault Refusal :=
  .next (respond s.brk_cnt.toNat true s)

end Sys2Proof.Machine
end

