-- ==== Sys2Proof/Machine/Controller.lean ====
section
/-! DEFINITION. The receiver controller (44_receiver_controller.md): TICK, NOP, BEGIN. -/

namespace Sys2Proof.Machine

/-- Step 2 of a tick: the handler of the state, if its enabled event occurs
(44_receiver_controller.md R93; the three event sources of 60_exceptions.md R101). -/
def handleEvent (cmp : Bool) (rx : Level) (s : State) : State :=
  match s.state with
  | .idle => detectEdge rx s
  | .sampling => if (cmp && s.sr_clk_en) = true then shiftIn rx s else s
  | .validatingFrame => if (cmp && s.tmr_ie) = true then validate rx s else s

/-- `TICK`: one clock tick with line level `rx` (44_receiver_controller.md R93). It answers nothing. -/
def execTick (rx : Level) (s : State) : Host.Outcome State Fault Refusal :=
  .next (trackLine rx (handleEvent (timerAdvance s).1 rx (timerAdvance s).2))

/-- `NOP` (44_receiver_controller.md R96). -/
def execNop (s : State) : Host.Outcome State Fault Refusal :=
  .next (respond 0 false s)

/-- What `BEGIN` writes: all but `buf` and `rx_prev` (44_receiver_controller.md R97). -/
def beginReception (s : State) : State :=
  { timerStop s with
    state := .idle, sr := 0x00#8, bitcnt := 0#4, sr_clk_en := false, tmr_ie := false,
    head := 0, count := 0, overflowed := false, ferr_cnt := 0#8, brk_cnt := 0#8,
    edge_en := true }

/-- `BEGIN` (44_receiver_controller.md R97). -/
def execBegin (s : State) : Host.Outcome State Fault Refusal :=
  .next (respond 0 false (beginReception s))

end Sys2Proof.Machine
end

