-- ==== Sys2Proof/Machine/Dispatch.lean ====
section
/-! DEFINITION. One arm for each instruction: `Tick` and the dispatch of `Cmd` (00_scope.md R6,
44_receiver_controller.md R93, R95). -/

namespace Sys2Proof.Machine

def exec (i : Instr) (s : State) : Host.Outcome State Fault Refusal :=
  match i with
  | .tick rx => Sys2Proof.Machine.execTick rx s
  | .nop => Sys2Proof.Machine.execNop s
  | .begin => Sys2Proof.Machine.execBegin s
  | .avail => Sys2Proof.Machine.execAvail s
  | .read => Sys2Proof.Machine.execRead s
  | .ovf => Sys2Proof.Machine.execOvf s
  | .ferrc => Sys2Proof.Machine.execFerrc s
  | .brkc => Sys2Proof.Machine.execBrkc s

end Sys2Proof.Machine
end

