-- ==== Sys2Proof/Machine/Inputs.lean ====
section
/-! DEFINITION. What one input of the environment makes the block do: an event word, or a clock edge of
the port-level view. -/

namespace Sys2Proof.Machine

/-- Two events one after the other: the second sees the state the first left (20_memory.md R38). -/
def andThen (o : Host.Outcome State Fault Refusal)
    (f : State → Host.Outcome State Fault Refusal) : Host.Outcome State Fault Refusal :=
  match o with
  | .next s => f s
  | .fault r => .fault r
  | .refused r => .refused r

/-- One event of the event machine, given as its event word; a reserved word is refused
(30_encoding.md R49, R51). -/
def runEventWord (w : EventWord) (s : State) : Host.Outcome State Fault Refusal :=
  match decode w with
  | .ok i => exec i s
  | .error _ => .refused (.reservedEvent w)

/-- One rising clock edge: with `rst = 1` reset and nothing else (70_reset_and_hazards.md R120);
otherwise `Cmd(cmd)` first and then `Tick(rx)` (00_scope.md R7). The reserved command is refused
(30_encoding.md R51). -/
def clockEdge (rst : Bool) (rx : Level) (cmd : CmdWord) (s : State) :
    Host.Outcome State Fault Refusal :=
  if rst = true then .next (hardReset s)
  else
    match decodeCmd cmd with
    | .ok i => andThen (exec i s) (exec (.tick rx))
    | .error _ => .refused (.reservedCommand cmd)

/-- One input of the environment. -/
def runInput (i : Input) (s : State) : Host.Outcome State Fault Refusal :=
  match i with
  | .event w => runEventWord w s
  | .edge rst rx cmd => clockEdge rst rx cmd s

/-- Offers an event to the block before all others still to come. -/
def offerEvent (w : EventWord) (s : State) : State := { s with input := .event w :: s.input }

end Sys2Proof.Machine
end

