-- ==== Sys2Proof/Machine/Step.lean ====
section
/-! DEFINITION. One step: the oldest input still offered is taken and run. -/

namespace Sys2Proof.Machine

/-- Takes the oldest input and runs it (00_scope.md R6, R7). With no input offered no event occurs, and
nothing but an event changes the state (log entry 2, DESIGN CHOICE). -/
def step (s : State) : Host.Outcome State Fault Refusal :=
  match s.input with
  | [] => .next s
  | i :: rest => runInput i { s with input := rest }

/-- `s` with an instruction of spec/opcode_table.json offered as its next event, before all others
(log entry 2). -/
def State.withFetchWord (s : State) (nbits w : Nat) : State := offerEvent (tableEventWord nbits w) s

end Sys2Proof.Machine
end

