-- ==== Sys2Proof/Machine/BitTiming.lean ====
section
/-! DEFINITION. The bit-timing calculator (00_scope.md R5, 44_receiver_controller.md R90). It is no
hardware and has no state: "it runs once, before the block is built". -/

namespace Sys2Proof.Machine

/-- `P = floor((f_tick + baud / 2) / baud)`, the integer nearest to `f_tick / baud` (00_scope.md R5). -/
def bitTicksFor (fTick baud : Nat) : Nat := (fTick + baud / 2) / baud

/-- `F = P + floor(P / 2)` (00_scope.md R5). -/
def firstTicksFor (bitTicks : Nat) : Nat := bitTicks + bitTicks / 2

/-- The smallest timer width that fits: the number of bits of `max(P, F)` (00_scope.md section 4). -/
def timerWidthFor (bitTicks firstTicks : Nat) : Nat := Nat.size (max bitTicks firstTicks)

/-- The parameters the calculator gives for a capacity `2^k`, a tick frequency and a baud rate. -/
def configFor (k fTick baud : Nat) : Config :=
  let p := bitTicksFor fTick baud
  let f := firstTicksFor p
  { k := k, bitTicks := p, firstTicks := f, tw := timerWidthFor p f }

end Sys2Proof.Machine
end

