-- ==== Sys2Proof/Machine/Waveform.lean ====
section
/-! DEFINITION. The serial frame on the line (30_encoding.md R45, R46) and the lines of the test-program
syntax (R53), as ticks and event words. -/

namespace Sys2Proof.Machine

/-- The ten cells of a frame with the given stop level: start bit low, the byte least significant bit
first, stop (30_encoding.md R45, 20_memory.md R30). -/
def cells (stop : Level) (b : Byte) : List Level :=
  [false, b.getLsbD 0, b.getLsbD 1, b.getLsbD 2, b.getLsbD 3,
    b.getLsbD 4, b.getLsbD 5, b.getLsbD 6, b.getLsbD 7, stop]

/-- Each cell held for one bit period of `p` ticks (30_encoding.md R46). -/
def waveform (p : Nat) (cs : List Level) : List Level := cs.flatMap (List.replicate p)

/-- The nominal frame of a byte (30_encoding.md R46). -/
def nominalFrame (p : Nat) (b : Byte) : List Level := waveform p (cells true b)

/-- `BADFRAME`: as the nominal frame, but the stop cell is low (30_encoding.md R53). -/
def badFrame (p : Nat) (b : Byte) : List Level := waveform p (cells false b)

/-- One tick for each level of the line. -/
def ticks (ls : List Level) : List Instr := ls.map Instr.tick

/-- A line of the test-program syntax (30_encoding.md R53). -/
inductive Line where
  /-- `BEGIN`, `AVAIL`, `READ`, `OVF`, `FERRC`, `BRKC` or `NOP`. -/
  | cmd (i : Instr)
  /-- `TICKS s`. -/
  | ticks (s : List Level)
  /-- `IDLE n`. -/
  | idle (n : Nat)
  /-- `LOW n`. -/
  | low (n : Nat)
  /-- `FRAME b`. -/
  | frame (b : Byte)
  /-- `BADFRAME b`. -/
  | badFrame (b : Byte)
  deriving DecidableEq, Repr

/-- The events a line expands to, at bit period `p` (30_encoding.md R53). -/
def Line.events (p : Nat) : Line → List Instr
  | .cmd i => [i]
  | .ticks s => Machine.ticks s
  | .idle n => Machine.ticks (List.replicate n true)
  | .low n => Machine.ticks (List.replicate n false)
  | .frame b => Machine.ticks (nominalFrame p b)
  | .badFrame b => Machine.ticks (Machine.badFrame p b)

/-- The event words a line expands to (30_encoding.md R49, R53). -/
def Line.words (p : Nat) (l : Line) : List EventWord := (l.events p).map encode

end Sys2Proof.Machine
end

