-- ==== Sys2Proof/WellFormed.lean ====
section
/-! DEFINITION. Which instructions and which parameter sets are well formed. -/

namespace Sys2Proof

/-- Every event is well formed: the only operand of the whole table is TICK's level, one bit, and both
of its values are legal; "No command has an operand" (30_encoding.md R47). -/
def Instr.wellFormed : Instr → Bool
  | .tick _ => true
  | .nop => true
  | .begin => true
  | .avail => true
  | .read => true
  | .ovf => true
  | .ferrc => true
  | .brkc => true

/-- The constraints on the parameters: `P >= 2`, `F >= 1`, `2^TW > max(P, F)` (00_scope.md R5).
`CAP = 2^K` with `K >= 0` holds by the form of the parameter (R2). -/
def Config.wellFormed (c : Config) : Bool :=
  decide (2 ≤ c.bitTicks) && decide (1 ≤ c.firstTicks) &&
    decide (max c.bitTicks c.firstTicks < 2 ^ c.tw)

end Sys2Proof
end

