-- ==== Sys2Proof/Safety.lean ====
section
/-! DEFINITION. The terms the claims use: runs, the queue's contents, the invariants, what each of the
two contexts can see. -/

namespace Sys2Proof.Machine

/-- A run over a finite sequence of events (00_scope.md R6), each by its meaning. -/
def runEvents : List Instr → State → Host.Outcome State Fault Refusal
  | [], s => .next s
  | i :: es, s => andThen (exec i s) (runEvents es)

/-- How many ticks a sequence of events holds. -/
def tickCount : List Instr → Nat
  | [] => 0
  | .tick _ :: es => tickCount es + 1
  | _ :: es => tickCount es

/-- Is the event a tick? -/
def isTick : Instr → Bool
  | .tick _ => true
  | _ => false

/-- The bytes in the queue, oldest first (10_state.md R19). -/
def State.queue (s : State) : List Byte :=
  (List.range s.count).map fun j => memRead s (slotIndex s j)

/-- The armed `Idle`: the block is waiting for a start edge. -/
def ArmedIdle (s : State) : Prop := s.state = .idle ∧ s.edge_en = true

/-- Reception has begun: the detector is armed exactly in `Idle` (10_state.md R25 item 10). -/
def Started (s : State) : Prop := s.edge_en = true ↔ s.state = .idle

/-- Items 1 to 9 of 10_state.md R25, in the spec's words and order. -/
structure SpecInvariants (s : State) : Prop where
  item1 : s.count ≤ s.cfg.cap
  item2 : s.edge_en = true → s.state = .idle
  item3 : s.sr_clk_en = true ↔ s.state = .sampling
  item4 : s.tmr_ie = true ↔ s.state = .validatingFrame
  item5 : s.tmr_run = true ↔ s.state ≠ .idle
  item6 : (s.tmr_run = false → s.tcnt = 0) ∧
    (s.tmr_run = true → 1 ≤ s.tcnt ∧ s.tcnt ≤ max s.cfg.bitTicks s.cfg.firstTicks)
  item7 : s.state = .sampling → s.bitcnt.toNat ≤ 7 ∧ s.sr >>> s.bitcnt.toNat = 0#8
  item8 : s.state = .validatingFrame → s.bitcnt = 8#4 ∧ 1 ≤ s.tcnt ∧ s.tcnt ≤ s.cfg.bitTicks
  item9 : ¬ (s.edge_en = true ∧ s.sr_clk_en = true) ∧ ¬ (s.edge_en = true ∧ s.tmr_ie = true) ∧
    ¬ (s.sr_clk_en = true ∧ s.tmr_ie = true)

/-- What the rules keep true of the queue's own words: `head` in its range, the memory in canonical form
with no slot outside `0 .. CAP-1`, and every live slot written by a push (10_state.md R19, R20). -/
structure QueueInvariants (s : State) : Prop where
  head_lt : s.head < s.cfg.cap
  buf_wf : Memory.wf s.buf
  buf_range : ∀ i b, Memory.read s.buf i = some b → i < s.cfg.cap
  live : ∀ j, j < s.count → ∃ b, Memory.read s.buf (slotIndex s j) = some b

/-- The invariant of the model: legal parameters, the spec's invariants, the queue's, a response that
fits its bus, and the sharper bound on the timer that R25 leaves out (`F` ticks at most before the first
sample, `P` at most between samples; log entry 9, DEDUCED from R71 and R91). -/
structure Inv (s : State) : Prop where
  cfg_ok : s.cfg.wellFormed = true
  spec : SpecInvariants s
  queue : QueueInvariants s
  first_le : s.state = .sampling → s.bitcnt = 0#4 → s.tcnt ≤ s.cfg.firstTicks
  next_le : s.state = .sampling → s.bitcnt ≠ 0#4 → s.tcnt ≤ s.cfg.bitTicks
  resp_fits : ∀ r, s.resp = some r → r.rdata < 2 ^ s.cfg.rw

/-- The tick at hand is a validation event: a compare event in `ValidatingFrame` with `tmr_ie = 1`
(43_frame_validator.md R80). -/
def Validates (s : State) : Prop :=
  s.state = .validatingFrame ∧ s.tmr_ie = true ∧ s.tmr_run = true ∧ s.tcnt = 1

/-- The byte an event pushes successfully, if it pushes one: a validation event with a high stop sample
while the queue is not full (43_frame_validator.md R82, 40_byte_queue.md R60). -/
def pushedBy (i : Instr) (s : State) : Option Byte :=
  match i with
  | .tick true =>
    if s.state = .validatingFrame ∧ s.tmr_ie = true ∧ s.tmr_run = true ∧ s.tcnt = 1 ∧
        s.count < s.cfg.cap then some (rev8 s.sr)
    else none
  | _ => none

/-- The byte a successful `READ` returns (40_byte_queue.md R62). -/
def readBy (i : Instr) (s : State) : Option Byte :=
  match i with
  | .read => if s.count = 0 then none else some (memRead s s.head)
  | _ => none

/-- The bytes pushed successfully along a run, in order: the sequence `p` of 20_memory.md R42. -/
def pushes : List Instr → State → List Byte
  | [], _ => []
  | i :: es, s =>
    (pushedBy i s).toList ++
      match exec i s with
      | .next t => pushes es t
      | _ => []

/-- The bytes returned by successful `READ`s along a run, in order: the sequence `r` of R42. -/
def reads : List Instr → State → List Byte
  | [], _ => []
  | i :: es, s =>
    (readBy i s).toList ++
      match exec i s with
      | .next t => reads es t
      | _ => []

/-- The answers to a sequence of commands, in order: "The observation a claim is made about is the
sequence of command responses" (00_scope.md section 5). -/
def answers : List Instr → State → List (Option Response)
  | [], _ => []
  | i :: es, s =>
    match exec i s with
    | .next t => t.resp :: answers es t
    | _ => []

/-- Two states agree on what the consumer may read (60_exceptions.md R112): `count`, `head`, the queue
memory, `overflowed` and the two counters. -/
structure SameForConsumer (s t : State) : Prop where
  cfg : s.cfg = t.cfg
  head : s.head = t.head
  count : s.count = t.count
  slots : ∀ i, memRead s i = memRead t i
  overflowed : s.overflowed = t.overflowed
  ferr : s.ferr_cnt = t.ferr_cnt
  brk : s.brk_cnt = t.brk_cnt

/-- Two states agree on the receiver's own state: sequencer, shift register, enables, timer and the edge
detector's memory (60_exceptions.md R112). -/
structure SameForReceiver (s t : State) : Prop where
  bitTicks : s.cfg.bitTicks = t.cfg.bitTicks
  firstTicks : s.cfg.firstTicks = t.cfg.firstTicks
  state : s.state = t.state
  sr : s.sr = t.sr
  bitcnt : s.bitcnt = t.bitcnt
  edge_en : s.edge_en = t.edge_en
  sr_clk_en : s.sr_clk_en = t.sr_clk_en
  tmr_ie : s.tmr_ie = t.tmr_ie
  tmr_run : s.tmr_run = t.tmr_run
  tcnt : s.tcnt = t.tcnt
  rx_prev : s.rx_prev = t.rx_prev

/-- The line of an ideal transmitter of one byte (70_reset_and_hazards.md R125): bit period `T` ticks,
start edge at time `e`; a tick at the integer time `t` sees the level of the cell it falls in. -/
def IdealLine (T e : ℚ) (b : Byte) (level : Nat → Level) : Prop :=
  ∀ t j : Nat, j < 10 → e + j * T ≤ t → (t : ℚ) < e + (j + 1) * T →
    level t = (cells true b).getD j true

end Sys2Proof.Machine
end

