-- ==== Sys2Proof/Certificates/Slice0/Obligations.lean ====
section
/-! DEFINITION. The statements for the provers. `F` and `P` in the docstrings are `FIRST_TICKS` and
`BIT_TICKS`; both, and `CAP`, are free in every statement, since the state carries its parameters. -/

open Sys2Proof Sys2Proof.Machine

/-! ## Encodings -/

/-- The event words, written out bit by bit from the table of 30_encoding.md R49. -/
def Obligations.EventWordsDecode : Prop :=
  (∀ r : Level, decode ((0b000#3).concat r) = .ok (.tick r)) ∧
  decode 0b0000#4 = .ok (.tick false) ∧
  decode 0b0001#4 = .ok (.tick true) ∧
  decode 0b1000#4 = .ok .nop ∧
  decode 0b1001#4 = .ok .begin ∧
  decode 0b1010#4 = .ok .avail ∧
  decode 0b1011#4 = .ok .read ∧
  decode 0b1100#4 = .ok .ovf ∧
  decode 0b1101#4 = .ok .ferrc ∧
  decode 0b1110#4 = .ok .brkc ∧
  (∀ w : EventWord, (2 ≤ w.toNat ∧ w.toNat ≤ 7) ∨ w = 0b1111#4 →
    decode w = .error (.reservedEvent w))

/-- The command codes, written out from the table of 30_encoding.md R48, and the event word of each
command is `1` followed by its code (R49). -/
def Obligations.CommandCodesDecode : Prop :=
  decodeCmd 0b000#3 = .ok .nop ∧
  decodeCmd 0b001#3 = .ok .begin ∧
  decodeCmd 0b010#3 = .ok .avail ∧
  decodeCmd 0b011#3 = .ok .read ∧
  decodeCmd 0b100#3 = .ok .ovf ∧
  decodeCmd 0b101#3 = .ok .ferrc ∧
  decodeCmd 0b110#3 = .ok .brkc ∧
  decodeCmd 0b111#3 = .error (.reservedCommand 0b111#3) ∧
  (∀ (c : CmdWord) (i : Instr), decodeCmd c = .ok i → decode (1#1 ++ c) = .ok i)

/-- Decoding an encoded instruction gives it back, every word that decodes is the encoding of what it
decodes to, and the same of the command codes. -/
def Obligations.EncodeDecodeRoundTrip : Prop :=
  (∀ i : Instr, i.wellFormed = true → decode (encode i) = .ok i) ∧
  (∀ (w : EventWord) (i : Instr), decode w = .ok i → encode i = w) ∧
  (∀ (i : Instr) (c : CmdWord), encodeCmd i = some c ↔ decodeCmd c = .ok i)

/-! ## The step -/

/-- When the next input is an event word that decodes to `i`, a step takes it and is `exec i`. -/
def Obligations.StepRunsDecodedEvent : Prop :=
  ∀ (s : State) (w : EventWord) (i : Instr) (rest : List Input),
    s.input = .event w :: rest → decode w = .ok i → step s = exec i { s with input := rest }

/-- On a clock edge without reset the command is performed first, then the tick, both in one step; the
response is the command's; an edge with `NOP` is just the tick (00_scope.md R7). -/
def Obligations.ClockEdgeRunsCommandThenTick : Prop :=
  ∀ (s : State) (rx : Level) (c : CmdWord) (i : Instr) (rest : List Input),
    s.input = .edge false rx c :: rest → decodeCmd c = .ok i →
    ∃ t u, exec i { s with input := rest } = .next t ∧ exec (.tick rx) t = .next u ∧
      step s = .next u ∧ u.resp = t.resp ∧
      (c = 0b000#3 → t = { s with input := rest, resp := some ⟨0, false⟩ })

/-- A clock edge with `rst = 1` sets every state element to its reset value, writes nothing to `buf`,
performs no command and no tick whatever `cmd` and `rx` are, and the API then answers
`AVAIL -> 0`, `READ -> (0, 0)`, `OVF -> 0` (70_reset_and_hazards.md R120). -/
def Obligations.ResetEdgeSetsEveryElement : Prop :=
  ∀ (s : State) (rx : Level) (c : CmdWord) (rest : List Input),
    s.input = .edge true rx c :: rest →
    ∃ t, step s = .next t ∧
      t.state = .idle ∧ t.sr = 0x00#8 ∧ t.bitcnt = 0#4 ∧
      t.edge_en = false ∧ t.sr_clk_en = false ∧ t.tmr_ie = false ∧ t.tmr_run = false ∧
      t.tcnt = 0 ∧ t.rx_prev = false ∧ t.head = 0 ∧ t.count = 0 ∧ t.overflowed = false ∧
      t.ferr_cnt = 0#8 ∧ t.brk_cnt = 0#8 ∧
      t.buf = s.buf ∧ t.cfg = s.cfg ∧ t.input = rest ∧
      exec .avail t = .next { t with resp := some ⟨0, true⟩ } ∧
      exec .read t = .next { t with resp := some ⟨0, false⟩ } ∧
      exec .ovf t = .next { t with resp := some ⟨0, true⟩ }

/-- A step refuses exactly the reserved codes, by name, and answers a next state on everything else:
there is no fault (60_exceptions.md R100, 30_encoding.md R51). That a step with no input offered changes
nothing is the model's choice (log entry 2). -/
def Obligations.StepRefusesOnlyReservedCodes : Prop :=
  ∀ s : State,
    (s.input = [] → step s = .next s) ∧
    (∀ w rest, s.input = .event w :: rest →
      (((2 ≤ w.toNat ∧ w.toNat ≤ 7) ∨ w.toNat = 15) ∧ step s = .refused (.reservedEvent w)) ∨
      ((w.toNat ≤ 1 ∨ (8 ≤ w.toNat ∧ w.toNat ≤ 14)) ∧ ∃ t, step s = .next t)) ∧
    (∀ rst rx c rest, s.input = .edge rst rx c :: rest →
      ((rst = false ∧ c = 0b111#3) ∧ step s = .refused (.reservedCommand c)) ∨
      ((rst = true ∨ c ≠ 0b111#3) ∧ ∃ t, step s = .next t))

/-- No step changes the parameters (00_scope.md R4, 20_memory.md R41), and each step uses up exactly one
input. -/
def Obligations.StepKeepsParametersAndTakesOneInput : Prop :=
  ∀ s t : State, step s = .next t → t.cfg = s.cfg ∧ t.input = s.input.tail

/-- A run of events by their meanings is the run of the machine's steps over their event words. -/
def Obligations.EventRunsAreStepRuns : Prop :=
  ∀ (es : List Instr) (s t : State) (rest : List Input),
    runEvents es { s with input := rest } = .next t →
    Host.Core.run Sys2Proof.core es.length
      { s with input := es.map (fun i => .event (encode i)) ++ rest } = .next t

/-- Every event completes: no sequence of ticks and commands stops the machine
(20_memory.md R40, 60_exceptions.md R100). -/
def Obligations.EveryRunContinues : Prop :=
  ∀ (es : List Instr) (s : State), ∃ t, runEvents es s = .next t ∧ t.input = s.input

/-! ## The commands -/

/-- `NOP` answers (0, 0) and changes no state (44_receiver_controller.md R96). -/
def Obligations.NopAnswersZero : Prop :=
  decodeCmd 0b000#3 = .ok .nop ∧ decode 0x8#4 = .ok .nop ∧
  ∀ s : State, exec .nop s = .next { s with resp := some ⟨0, false⟩ }

/-- `BEGIN` in any state: every write of 44_receiver_controller.md R97, the answer (0, 0), and nothing
else (`buf`, `rx_prev`, the parameters and the inputs are kept). -/
def Obligations.BeginRestartsReception : Prop :=
  decodeCmd 0b001#3 = .ok .begin ∧ decode 0x9#4 = .ok .begin ∧
  ∀ s : State, exec .begin s = .next
    { state := .idle, sr := 0x00#8, bitcnt := 0#4, sr_clk_en := false, tmr_ie := false,
      tmr_run := false, tcnt := 0, head := 0, count := 0, overflowed := false,
      ferr_cnt := 0#8, brk_cnt := 0#8, edge_en := true,
      rx_prev := s.rx_prev, buf := s.buf, cfg := s.cfg, resp := some ⟨0, false⟩,
      input := s.input }

/-- `AVAIL` answers (count, 1), writes no state, and the answer fits the response bus
(40_byte_queue.md R61). -/
def Obligations.AvailAnswersCount : Prop :=
  decodeCmd 0b010#3 = .ok .avail ∧ decode 0xA#4 = .ok .avail ∧
  (∀ s : State, exec .avail s = .next { s with resp := some ⟨s.count, true⟩ }) ∧
  (∀ s : State, s.count ≤ s.cfg.cap → s.count < 2 ^ s.cfg.rw) ∧
  (∀ c : Config, exec .avail (State.resetWith c) =
    .next { State.resetWith c with resp := some ⟨0, true⟩ })

/-- `READ`: (0, 0) and no change on an empty queue; otherwise the byte at `head`, `rvalid = 1`, `head`
advanced modulo `CAP`, `count` decremented, and nothing else (40_byte_queue.md R62). -/
def Obligations.ReadRemovesOldest : Prop :=
  decodeCmd 0b011#3 = .ok .read ∧ decode 0xB#4 = .ok .read ∧
  (∀ s : State, s.count = 0 → exec .read s = .next { s with resp := some ⟨0, false⟩ }) ∧
  (∀ s : State, s.count ≠ 0 →
    exec .read s = .next
      { s with head := (s.head + 1) % 2 ^ s.cfg.k, count := s.count - 1,
               resp := some ⟨(memRead s s.head).toNat, true⟩ }) ∧
  (∀ (s : State) (b : Byte), Memory.read s.buf s.head = some b → memRead s s.head = b)

/-- In a state that meets the invariant, `READ` answers the first byte of the queue and leaves the rest
(40_byte_queue.md R62, 20_memory.md R42); that byte was written by a push, it is no free value
(10_state.md R19). -/
def Obligations.ReadAnswersFirstOfQueue : Prop :=
  ∀ (s : State) (b : Byte) (bs : List Byte), Inv s → s.queue = b :: bs →
    Memory.read s.buf s.head = some b ∧
    ∃ t, exec .read s = .next t ∧ t.resp = some ⟨b.toNat, true⟩ ∧ t.queue = bs

/-- `OVF` answers the flag and clears it, and nothing else; repeated at once it answers 0
(40_byte_queue.md R63). -/
def Obligations.OvfTakesFlag : Prop :=
  decodeCmd 0b100#3 = .ok .ovf ∧ decode 0xC#4 = .ok .ovf ∧
  (∀ s : State, exec .ovf s = .next
    { s with overflowed := false, resp := some ⟨if s.overflowed = true then 1 else 0, true⟩ }) ∧
  (∀ s t : State, exec .ovf s = .next t →
    exec .ovf t = .next { t with resp := some ⟨0, true⟩ })

/-- `FERRC` answers (ferr_cnt, 1) and writes no state (43_frame_validator.md R86). -/
def Obligations.FerrcReadsCounter : Prop :=
  decodeCmd 0b101#3 = .ok .ferrc ∧ decode 0xD#4 = .ok .ferrc ∧
  ∀ s : State, exec .ferrc s = .next { s with resp := some ⟨s.ferr_cnt.toNat, true⟩ }

/-- `BRKC` answers (brk_cnt, 1) and writes no state (43_frame_validator.md R87). -/
def Obligations.BrkcReadsCounter : Prop :=
  decodeCmd 0b110#3 = .ok .brkc ∧ decode 0xE#4 = .ok .brkc ∧
  ∀ s : State, exec .brkc s = .next { s with resp := some ⟨s.brk_cnt.toNat, true⟩ }

/-- The consumer's side of the privilege table (60_exceptions.md R112): a command other than `BEGIN`
writes no receiver state, no byte of `buf` and no counter; it may only remove from the queue and only
clear the flag. -/
def Obligations.CommandsWriteOnlyConsumerState : Prop :=
  ∀ (i : Instr) (s t : State), (∀ rx, i ≠ .tick rx) → i ≠ .begin → exec i s = .next t →
    t.state = s.state ∧ t.sr = s.sr ∧ t.bitcnt = s.bitcnt ∧ t.edge_en = s.edge_en ∧
    t.sr_clk_en = s.sr_clk_en ∧ t.tmr_ie = s.tmr_ie ∧ t.tmr_run = s.tmr_run ∧
    t.tcnt = s.tcnt ∧ t.rx_prev = s.rx_prev ∧ t.buf = s.buf ∧
    (∀ a, Memory.read t.buf a = Memory.read s.buf a) ∧
    t.ferr_cnt = s.ferr_cnt ∧ t.brk_cnt = s.brk_cnt ∧ t.cfg = s.cfg ∧ t.input = s.input ∧
    (i ≠ .read → t.head = s.head ∧ t.count = s.count) ∧
    t.count ≤ s.count ∧
    (i ≠ .ovf → t.overflowed = s.overflowed) ∧
    (t.overflowed = true → s.overflowed = true)

/-! ## The tick -/

/-- A falling edge in armed `Idle` starts a frame: the writes of `start_frame`, `rx_prev`, and nothing
else (41_start_bit_detector.md R70, R71). -/
def Obligations.FallingEdgeStartsFrame : Prop :=
  ∀ s : State, s.state = .idle → s.edge_en = true → s.tmr_run = false → s.rx_prev = true →
    exec (.tick false) s = .next
      { s with edge_en := false, tmr_run := true, tcnt := s.cfg.firstTicks, sr := 0x00#8,
               bitcnt := 0#4, sr_clk_en := true, state := .sampling, rx_prev := false }

/-- A rising edge seen by the armed detector changes nothing except `rx_prev`
(41_start_bit_detector.md R72). -/
def Obligations.RisingEdgeIgnored : Prop :=
  ∀ s : State, s.state = .idle → s.edge_en = true → s.tmr_run = false → s.rx_prev = false →
    exec (.tick true) s = .next { s with rx_prev := true }

/-- In `Idle` a tick with no change of level, or with the detector disarmed, changes nothing but
`rx_prev`: a level is no edge, and an edge while disarmed is not remembered
(41_start_bit_detector.md R70, R73). -/
def Obligations.NoEdgeEventNoEffect : Prop :=
  ∀ (s : State) (rx : Level), s.state = .idle → s.tmr_run = false →
    (s.edge_en = false ∨ rx = s.rx_prev) →
    exec (.tick rx) s = .next { s with rx_prev := rx }

/-- In `Sampling`: a tick that is no compare event changes only `tcnt` and `rx_prev`; a compare event
reloads the timer with `P` and shifts the level in at bit 0; the eighth one also stops the shift clock,
enables the timer's event and enters `ValidatingFrame` (42_bit_sampler.md R75, R76,
44_receiver_controller.md R91). -/
def Obligations.SamplingTick : Prop :=
  ∀ (s : State) (rx : Level), s.state = .sampling → s.sr_clk_en = true → s.tmr_run = true →
    (s.tcnt ≠ 1 →
      exec (.tick rx) s = .next { s with tcnt := s.tcnt - 1, rx_prev := rx }) ∧
    (s.tcnt = 1 → s.bitcnt ≠ 7#4 →
      exec (.tick rx) s = .next
        { s with tcnt := s.cfg.bitTicks, sr := (s.sr <<< 1) ||| (if rx = true then 1#8 else 0#8),
                 bitcnt := s.bitcnt + 1#4, rx_prev := rx }) ∧
    (s.tcnt = 1 → s.bitcnt = 7#4 →
      exec (.tick rx) s = .next
        { s with tcnt := s.cfg.bitTicks, sr := (s.sr <<< 1) ||| (if rx = true then 1#8 else 0#8),
                 bitcnt := 8#4, sr_clk_en := false, tmr_ie := true, state := .validatingFrame,
                 rx_prev := rx })

/-- In `ValidatingFrame` a tick that is no compare event changes only `tcnt` and `rx_prev`: nothing is
sampled between the eighth data sample and the stop sample (44_receiver_controller.md R91, R93). -/
def Obligations.ValidatingTickBeforeStopSample : Prop :=
  ∀ (s : State) (rx : Level), s.state = .validatingFrame → s.tmr_run = true → s.tcnt ≠ 1 →
    exec (.tick rx) s = .next { s with tcnt := s.tcnt - 1, rx_prev := rx }

/-- The validation event, all its outcomes: a good frame's byte is stored at `(head + count) mod CAP`, or
dropped with `overflowed` set if the queue is full; all samples low is a break; anything else with a low
stop sample is a framing error; on every path the timer is stopped, the detector armed and the block in
`Idle`, and `sr` is kept (43_frame_validator.md R80, with 40_byte_queue.md R60). -/
def Obligations.ValidationOutcomes : Prop :=
  ∀ (s u : State) (rx : Level), Validates s →
    u = { s with tmr_ie := false, tmr_run := false, tcnt := 0, edge_en := true, state := .idle,
                 rx_prev := rx } →
    (rx = true → s.count < s.cfg.cap →
      exec (.tick rx) s = .next
        { u with buf := Memory.write s.buf ((s.head + s.count) % s.cfg.cap) (rev8 s.sr),
                 count := s.count + 1 }) ∧
    (rx = true → s.cfg.cap ≤ s.count →
      exec (.tick rx) s = .next { u with overflowed := true }) ∧
    (rx = false → s.sr = 0x00#8 →
      exec (.tick rx) s = .next
        { u with brk_cnt := if s.brk_cnt = 255#8 then 255#8 else s.brk_cnt + 1#8 }) ∧
    (rx = false → s.sr ≠ 0x00#8 →
      exec (.tick rx) s = .next
        { u with ferr_cnt := if s.ferr_cnt = 255#8 then 255#8 else s.ferr_cnt + 1#8 })

/-- A tick always completes, and this is all it may do: it follows the line in `rx_prev`; it keeps
`head`, the parameters, the inputs and the response; only a validation event with a high stop sample
and a queue that is not full stores a byte, at `(head + count) mod CAP`, and every other byte of the
memory reads as before; the flag is only set, the counters only grow, and each only at a validation
event; `sr` and `bitcnt` change only at a start edge or a data sample (60_exceptions.md R112). -/
def Obligations.TickCompletesWithFrame : Prop :=
  ∀ (s : State) (rx : Level), ∃ t, exec (.tick rx) s = .next t ∧
    t.rx_prev = rx ∧ t.head = s.head ∧ t.cfg = s.cfg ∧ t.resp = s.resp ∧ t.input = s.input ∧
    ((Validates s ∧ rx = true ∧ s.count < s.cfg.cap) →
      t.count = s.count + 1 ∧ Memory.read t.buf (pushIndex s) = some (rev8 s.sr) ∧
      ∀ a, a ≠ pushIndex s → Memory.read t.buf a = Memory.read s.buf a) ∧
    (¬ (Validates s ∧ rx = true ∧ s.count < s.cfg.cap) → t.count = s.count ∧ t.buf = s.buf) ∧
    (t.overflowed = true ↔
      s.overflowed = true ∨ (Validates s ∧ rx = true ∧ s.cfg.cap ≤ s.count)) ∧
    (t.ferr_cnt ≠ s.ferr_cnt → Validates s ∧ rx = false ∧ s.sr ≠ 0x00#8 ∧
      t.ferr_cnt.toNat = s.ferr_cnt.toNat + 1) ∧
    (t.brk_cnt ≠ s.brk_cnt → Validates s ∧ rx = false ∧ s.sr = 0x00#8 ∧
      t.brk_cnt.toNat = s.brk_cnt.toNat + 1) ∧
    (t.sr ≠ s.sr ∨ t.bitcnt ≠ s.bitcnt →
      (s.state = .idle ∧ s.edge_en = true ∧ s.rx_prev = true ∧ rx = false) ∨
      (s.state = .sampling ∧ s.sr_clk_en = true ∧ s.tmr_run = true ∧ s.tcnt = 1))

/-- The state transitions of 44_receiver_controller.md R94 and no others: to `Sampling` on a falling
edge in armed `Idle`, to `ValidatingFrame` on the eighth compare event, to `Idle` on the next one or by
`BEGIN`. -/
def Obligations.OnlyTheFourTransitions : Prop :=
  ∀ (i : Instr) (s t : State), Inv s → exec i s = .next t → t.state ≠ s.state →
    (s.state = .idle ∧ t.state = .sampling ∧ i = .tick false ∧ s.edge_en = true ∧
      s.rx_prev = true) ∨
    (s.state = .sampling ∧ t.state = .validatingFrame ∧ (∃ rx, i = .tick rx) ∧ s.tcnt = 1 ∧
      s.bitcnt = 7#4) ∨
    (s.state = .validatingFrame ∧ t.state = .idle ∧ (∃ rx, i = .tick rx) ∧ s.tcnt = 1) ∨
    (t.state = .idle ∧ i = .begin)

/-! ## Data: the bit order, `rev8`, the waveform, the timing calculator -/

/-- The laws of `rev8`: the closed form, involution, bijection, and its sixteen fixed points
(43_frame_validator.md R85). -/
def Obligations.Rev8Laws : Prop :=
  (∀ (x : Byte) (i : Nat), i < 8 → (rev8 x).getLsbD i = x.getLsbD (7 - i)) ∧
  (∀ x : Byte, rev8 (rev8 x) = x) ∧
  Function.Bijective rev8 ∧
  (∀ x : Byte, rev8 x = x ↔
    x ∈ [0x00#8, 0x18#8, 0x24#8, 0x3C#8, 0x42#8, 0x5A#8, 0x66#8, 0x7E#8,
         0x81#8, 0x99#8, 0xA5#8, 0xBD#8, 0xC3#8, 0xDB#8, 0xE7#8, 0xFF#8])

/-- More laws of `rev8`, those of 95_test_vectors.md section 2: it commutes with the bitwise operations,
turns a left shift into a right shift, and sends only 0 to 0. -/
def Obligations.Rev8Algebra : Prop :=
  (∀ x y : Byte, rev8 (x ||| y) = rev8 x ||| rev8 y ∧ rev8 (x &&& y) = rev8 x &&& rev8 y ∧
    rev8 (x ^^^ y) = rev8 x ^^^ rev8 y) ∧
  (∀ x : Byte, rev8 (~~~x) = ~~~(rev8 x)) ∧
  (∀ x : Byte, rev8 (x <<< 1) = rev8 x >>> 1) ∧
  (∀ x : Byte, rev8 x = 0x00#8 ↔ x = 0x00#8) ∧ rev8 0xFF#8 = 0xFF#8

/-- Eight samples shifted into a cleared register: sample `i` ends at bit `7 - i` of `raw` and at bit `i`
of the delivered byte (20_memory.md R31, 30_encoding.md R50). -/
def Obligations.SamplesAssembleInWireOrder : Prop :=
  ∀ (d : Fin 8 → Level) (i : Fin 8),
    (rawOfSamples (List.ofFn d)).getLsbD (7 - i) = d i ∧
    (rev8 (rawOfSamples (List.ofFn d))).getLsbD i = d i

/-- The nominal frame holds each of its ten cells for `p` ticks: start low, the byte least significant
bit first, stop high (30_encoding.md R45, R46, 20_memory.md R30). -/
def Obligations.NominalFrameLevels : Prop :=
  ∀ (p : Nat) (b : Byte),
    (nominalFrame p b).length = 10 * p ∧
    ∀ t, t < p →
      (nominalFrame p b)[t]? = some false ∧
      (∀ i, i < 8 → (nominalFrame p b)[(i + 1) * p + t]? = some (b.getLsbD i)) ∧
      (nominalFrame p b)[9 * p + t]? = some true

/-- The bit-timing calculator: `P` is nearest to `f_tick / baud`, `F` is `P + floor(P/2)`, the parameters
it gives are legal whenever `P >= 2`, and at 8 MHz and 9600 baud they are 833 and 1249
(00_scope.md R5, 44_receiver_controller.md R90). -/
def Obligations.CalculatorGivesNearestPeriod : Prop :=
  (∀ (k f b : Nat), 0 < b →
    let c := configFor k f b
    2 * (c.bitTicks * b) ≤ 2 * f + b ∧ 2 * f ≤ 2 * (c.bitTicks * b) + b ∧
    c.firstTicks = c.bitTicks + c.bitTicks / 2 ∧ c.cap = 2 ^ k ∧
    (2 ≤ c.bitTicks → c.wellFormed = true)) ∧
  (configFor 5 8000000 9600).bitTicks = 833 ∧ (configFor 5 8000000 9600).firstTicks = 1249

/-! ## Invariants -/

/-- The state after reset meets the invariant, for every legal choice of the parameters. -/
def Obligations.ResetMeetsInvariant : Prop :=
  (∀ c : Config, c.wellFormed = true → Inv (State.resetWith c)) ∧ Inv State.reset

/-- Every step keeps the invariant: items 1 to 9 of 10_state.md R25, `head` in range, the queue memory
in canonical form and inside `0 .. CAP-1`, every live slot written, the response within its bus. -/
def Obligations.StepKeepsInvariant : Prop :=
  ∀ s t : State, Inv s → step s = .next t → Inv t

/-- 10_state.md R25, all ten items, after every finite run of events from reset, for every legal choice
of the parameters. -/
def Obligations.SpecInvariantsOnEveryRun : Prop :=
  ∀ (c : Config) (es : List Instr) (t : State), c.wellFormed = true →
    runEvents es (State.resetWith c) = .next t →
    SpecInvariants t ∧
    (Instr.begin ∉ es → t.state = .idle ∧ t.edge_en = false) ∧
    (Instr.begin ∈ es → (t.edge_en = true ↔ t.state = .idle))

/-- Once reception has begun the detector is armed exactly in `Idle`, and no step but a reset edge ends
that (10_state.md R25 item 10, 60_exceptions.md R101). -/
def Obligations.StepKeepsReceptionBegun : Prop :=
  ∀ s t : State, Inv s → Started s → (∀ rx c rest, s.input ≠ .edge true rx c :: rest) →
    step s = .next t → Started t

/-- Before the first `BEGIN` every tick is ignored entirely: over any line, only `rx_prev` follows
(70_reset_and_hazards.md R121 item 3, 41_start_bit_detector.md R73). -/
def Obligations.DeafBeforeBegin : Prop :=
  ∀ (s : State) (ls : List Level), Inv s → s.state = .idle → s.edge_en = false →
    runEvents (ticks ls) s = .next { s with rx_prev := ls.getLastD s.rx_prev }

/-! ## The queue over a run -/

/-- The FIFO law of 20_memory.md R42: over any events after a `BEGIN`, the bytes returned by successful
`READ`s followed by the bytes still queued are exactly the bytes pushed successfully, in order; hence
the number of reads never exceeds the number of pushes, and `count` is the difference. -/
def Obligations.QueueIsFifo : Prop :=
  ∀ (s t u : State) (es : List Instr), Inv s → exec .begin s = .next t →
    Instr.begin ∉ es → runEvents es t = .next u →
    pushes es t = reads es t ++ u.queue ∧
    (reads es t).length ≤ (pushes es t).length ∧
    u.count = (pushes es t).length - (reads es t).length

/-- Back-to-back nominal frames into an armed block, whatever is queued already: the oldest `CAP` bytes
are kept in order, `overflowed` tells whether any was dropped, no error is counted, and the block ends
armed (20_memory.md R42, 44_receiver_controller.md R99, 30_encoding.md R46). Holds for every
`F` with `P <= F < 2P`, the default among them. -/
def Obligations.NominalFramesKeepOldest : Prop :=
  ∀ (s : State) (bs : List Byte), Inv s → ArmedIdle s → s.rx_prev = true →
    s.cfg.bitTicks ≤ s.cfg.firstTicks → s.cfg.firstTicks < 2 * s.cfg.bitTicks →
    ∃ t, runEvents (ticks (bs.flatMap (nominalFrame s.cfg.bitTicks))) s = .next t ∧
      ArmedIdle t ∧ t.rx_prev = true ∧
      t.queue = (s.queue ++ bs).take s.cfg.cap ∧
      (t.overflowed = true ↔ s.overflowed = true ∨ s.cfg.cap < s.count + bs.length) ∧
      t.ferr_cnt = s.ferr_cnt ∧ t.brk_cnt = s.brk_cnt

/-! ## The frame in time -/

/-- The timeline of a frame whose start edge is on tick `d`, over any line: `Sampling` with
`bitcnt` data samples taken until tick `d + F + 7P`, `ValidatingFrame` from then until `d + F + 8P`,
armed `Idle` after it (44_receiver_controller.md R99). -/
def Obligations.FrameTimeline : Prop :=
  ∀ (s : State) (ls : List Level), Inv s → ArmedIdle s → s.rx_prev = true →
    ls.length ≤ s.cfg.firstTicks + 8 * s.cfg.bitTicks →
    ∃ t, runEvents (ticks (false :: ls)) s = .next t ∧
      (ls.length < s.cfg.firstTicks + 7 * s.cfg.bitTicks →
        t.state = .sampling ∧
        t.bitcnt.toNat = if ls.length < s.cfg.firstTicks then 0
          else (ls.length - s.cfg.firstTicks) / s.cfg.bitTicks + 1) ∧
      (s.cfg.firstTicks + 7 * s.cfg.bitTicks ≤ ls.length →
        ls.length < s.cfg.firstTicks + 8 * s.cfg.bitTicks →
        t.state = .validatingFrame ∧ t.bitcnt = 8#4) ∧
      (ls.length = s.cfg.firstTicks + 8 * s.cfg.bitTicks →
        ArmedIdle t ∧ t.tmr_run = false ∧ t.tcnt = 0)

/-- One frame over any line whatever: with the start edge on tick `d`, the levels on the eight ticks
`d + F + i*P` are the bits of the byte, least significant first, and the level on `d + F + 8P` decides
(20_memory.md R34, 42_bit_sampler.md R78, 43_frame_validator.md R82, R83, R84). -/
def Obligations.NineSamplesDecideFrame : Prop :=
  ∀ (s : State) (ls : List Level) (b : Byte) (stop : Level), Inv s → ArmedIdle s →
    s.rx_prev = true → ls.length = s.cfg.firstTicks + 8 * s.cfg.bitTicks →
    (∀ i, i < 8 →
      (false :: ls)[s.cfg.firstTicks + i * s.cfg.bitTicks]? = some (b.getLsbD i)) →
    (false :: ls)[s.cfg.firstTicks + 8 * s.cfg.bitTicks]? = some stop →
    ∃ t, runEvents (ticks (false :: ls)) s = .next t ∧ ArmedIdle t ∧ t.rx_prev = stop ∧
      (stop = true → s.count < s.cfg.cap →
        t.queue = s.queue ++ [b] ∧ t.overflowed = s.overflowed ∧
        t.ferr_cnt = s.ferr_cnt ∧ t.brk_cnt = s.brk_cnt) ∧
      (stop = true → s.count = s.cfg.cap →
        t.queue = s.queue ∧ t.overflowed = true ∧
        t.ferr_cnt = s.ferr_cnt ∧ t.brk_cnt = s.brk_cnt) ∧
      (stop = false → b = 0x00#8 →
        t.queue = s.queue ∧ t.overflowed = s.overflowed ∧ t.ferr_cnt = s.ferr_cnt ∧
        t.brk_cnt.toNat = min 255 (s.brk_cnt.toNat + 1)) ∧
      (stop = false → b ≠ 0x00#8 →
        t.queue = s.queue ∧ t.overflowed = s.overflowed ∧ t.brk_cnt = s.brk_cnt ∧
        t.ferr_cnt.toNat = min 255 (s.ferr_cnt.toNat + 1))

/-- After reception has begun, whatever the line and the consumer do (short of `BEGIN`), the block is in
armed `Idle` again within `F + 8P` ticks (44_receiver_controller.md R98). -/
def Obligations.RearmedWithinBoundedTicks : Prop :=
  ∀ (s : State) (es : List Instr), Inv s → Started s → Instr.begin ∉ es →
    s.cfg.firstTicks + 8 * s.cfg.bitTicks ≤ tickCount es →
    ∃ n t, n ≤ es.length ∧
      tickCount (es.take n) ≤ s.cfg.firstTicks + 8 * s.cfg.bitTicks ∧
      runEvents (es.take n) s = .next t ∧ ArmedIdle t

/-- A bad nominal frame changes no byte of the queue, is counted once, as a break if its data are all
zero and as a framing error otherwise, and after one high tick the next nominal frame is received
(43_frame_validator.md R83, R84, R88). -/
def Obligations.BadFrameCountedThenRecovered : Prop :=
  ∀ (s : State) (b b' : Byte), Inv s → ArmedIdle s → s.rx_prev = true →
    s.cfg.bitTicks ≤ s.cfg.firstTicks → s.cfg.firstTicks < 2 * s.cfg.bitTicks →
    ∃ t u, runEvents (ticks (badFrame s.cfg.bitTicks b)) s = .next t ∧
      ArmedIdle t ∧ t.rx_prev = false ∧ t.queue = s.queue ∧ t.overflowed = s.overflowed ∧
      t.brk_cnt.toNat = (if b = 0x00#8 then min 255 (s.brk_cnt.toNat + 1) else s.brk_cnt.toNat) ∧
      t.ferr_cnt.toNat = (if b = 0x00#8 then s.ferr_cnt.toNat else min 255 (s.ferr_cnt.toNat + 1)) ∧
      runEvents (ticks (true :: nominalFrame s.cfg.bitTicks b')) t = .next u ∧
      ArmedIdle u ∧ u.queue = (s.queue ++ [b']).take s.cfg.cap

/-- No start-bit verification: a low pulse of one tick on an idle-high line is received, `F + 8P` ticks
later, as the byte `0xFF` (41_start_bit_detector.md R74). -/
def Obligations.OneTickGlitchReadsFF : Prop :=
  ∀ s : State, Inv s → ArmedIdle s → s.rx_prev = true → s.count < s.cfg.cap →
    ∃ t, runEvents (ticks
        (false :: List.replicate (s.cfg.firstTicks + 8 * s.cfg.bitTicks) true)) s = .next t ∧
      ArmedIdle t ∧ t.queue = s.queue ++ [0xFF#8]

/-- A line stuck low: armed on a line that is already low, nothing happens at all, for however long; if
the line was seen high first, exactly one break is counted and then nothing
(70_reset_and_hazards.md R129, 41_start_bit_detector.md R70). -/
def Obligations.StuckLowLineIsSilent : Prop :=
  (∀ (s : State) (n : Nat), Inv s → ArmedIdle s → s.rx_prev = false →
    runEvents (ticks (List.replicate n false)) s = .next s) ∧
  (∀ (s : State) (n : Nat), Inv s → ArmedIdle s → s.rx_prev = true →
    s.cfg.firstTicks + 8 * s.cfg.bitTicks < n →
    ∃ t, runEvents (ticks (List.replicate n false)) s = .next t ∧ ArmedIdle t ∧
      t.queue = s.queue ∧ t.overflowed = s.overflowed ∧ t.ferr_cnt = s.ferr_cnt ∧
      t.brk_cnt.toNat = min 255 (s.brk_cnt.toNat + 1))

/-- The sampling tolerance of 70_reset_and_hazards.md R125, its sufficient direction: if an ideal
transmitter's start edge falls in `(-1, 0]`, so that it is detected on tick 0, and every one of the nine
samples falls in its own cell, the byte is received, whatever it is. -/
def Obligations.SamplesInOwnCellsReceiveByte : Prop :=
  ∀ (s : State) (b : Byte) (T e : ℚ) (level : Nat → Level), Inv s → ArmedIdle s →
    s.rx_prev = true → s.count < s.cfg.cap → -1 < e → e ≤ 0 → IdealLine T e b level →
    (∀ k : Nat, k ≤ 8 →
      e + (k + 1) * T ≤ ((s.cfg.firstTicks + k * s.cfg.bitTicks : Nat) : ℚ) ∧
      ((s.cfg.firstTicks + k * s.cfg.bitTicks : Nat) : ℚ) < e + (k + 2) * T) →
    ∃ t, runEvents (ticks
        ((List.range (s.cfg.firstTicks + 8 * s.cfg.bitTicks + 1)).map level)) s = .next t ∧
      ArmedIdle t ∧ t.queue = s.queue ++ [b]

/-! ## The two contexts -/

/-- Command and validation on one clock edge, command first (60_exceptions.md R103): a `READ` makes room
and the byte is kept; an `OVF` returns the old flag and the new overflow stays set; a `BEGIN` cancels
the validation. -/
def Obligations.CommandOnValidationEdge : Prop :=
  ∀ (s : State) (rest : List Input) (b : Byte) (bs : List Byte),
    Inv s → Validates s → s.count = s.cfg.cap → s.queue = b :: bs →
    (s.input = .edge false true 0b011#3 :: rest →
      ∃ t, step s = .next t ∧ t.resp = some ⟨b.toNat, true⟩ ∧ t.queue = bs ++ [rev8 s.sr] ∧
        t.overflowed = s.overflowed) ∧
    (s.input = .edge false true 0b100#3 :: rest →
      ∃ t, step s = .next t ∧ t.resp = some ⟨s.overflowed.toNat, true⟩ ∧ t.queue = b :: bs ∧
        t.overflowed = true) ∧
    (s.input = .edge false true 0b001#3 :: rest →
      ∃ t, step s = .next t ∧ ArmedIdle t ∧ t.queue = [] ∧ t.overflowed = false ∧
        t.ferr_cnt = 0#8 ∧ t.brk_cnt = 0#8)

/-- The consumer cannot learn the receiver's state: two blocks that agree on `count`, `head`, the queue
memory, the flag and the counters give the same answers to every sequence of commands, whatever their
sequencers, shift registers, enables and timers hold (60_exceptions.md R112, R116). -/
def Obligations.AnswersHideReceiverState : Prop :=
  ∀ (es : List Instr) (s t : State), SameForConsumer s t → (∀ rx, Instr.tick rx ∉ es) →
    answers es s = answers es t

/-- The consumer cannot disturb the receiver: over any two event sequences with the same ticks, one with
the commands (other than `BEGIN`) taken out, the receiver's own state is the same, whatever the queue
held (60_exceptions.md R112, 00_scope.md R6: a tick is never skipped or postponed). -/
def Obligations.CommandsNeverDisturbReceiver : Prop :=
  ∀ (es : List Instr) (s s' t t' : State), SameForReceiver s s' → Instr.begin ∉ es →
    runEvents es s = .next t →
    runEvents (es.filter isTick) s' = .next t' →
    SameForReceiver t t'
end

