-- ==== Sys2Proof/Laws/Memory.lean ====
section
/-! SUPPORT. The queue memory: a read after a write, and the canonical form. -/

namespace Sys2Proof.Machine

theorem Memory.read_write_same (m : Memory) (i : Nat) (b : Byte) :
    Memory.read (Memory.write m i b) i = some b := by
  induction m with
  | nil => simp [Memory.write, Memory.read]
  | cons c m ih =>
    obtain ⟨j, c⟩ := c
    unfold Memory.write
    split
    · simp [Memory.read]
    · split
      · simp [Memory.read]
      · simp [Memory.read, *]

theorem Memory.read_write_other (m : Memory) (i a : Nat) (b : Byte) (h : a ≠ i) :
    Memory.read (Memory.write m i b) a = Memory.read m a := by
  induction m with
  | nil => simp [Memory.write, Memory.read, h]
  | cons c m ih =>
    obtain ⟨j, c⟩ := c
    unfold Memory.write
    split
    · simp [Memory.read, h]
    · split
      · subst_vars; simp [Memory.read, h]
      · simp [Memory.read, ih]

theorem Memory.mem_write (m : Memory) (i : Nat) (b : Byte) (c : Host.Cell)
    (h : c ∈ Memory.write m i b) : c.1 = i ∨ c ∈ m := by
  induction m with
  | nil => simp [Memory.write] at h; simp [h]
  | cons d m ih =>
    obtain ⟨j, d⟩ := d
    unfold Memory.write at h
    split at h
    · rcases List.mem_cons.mp h with rfl | h
      · exact .inl rfl
      · exact .inr h
    · split at h
      · rcases List.mem_cons.mp h with rfl | h
        · exact .inl rfl
        · exact .inr (List.mem_cons_of_mem _ h)
      · rcases List.mem_cons.mp h with rfl | h
        · exact .inr (List.mem_cons_self ..)
        · exact (ih h).imp id (List.mem_cons_of_mem _)

/-- The one operation that writes the memory keeps its canonical form. -/
theorem Memory.write_wf (m : Memory) (i : Nat) (b : Byte) (h : Memory.wf m) :
    Memory.wf (Memory.write m i b) := by
  induction m with
  | nil => simp [Memory.write]
  | cons d m ih =>
    obtain ⟨j, d⟩ := d
    have hj := (List.pairwise_cons.mp h).1
    have hm := (List.pairwise_cons.mp h).2
    unfold Memory.write
    split
    · rename_i hij
      refine List.pairwise_cons.mpr ⟨fun c hc => ?_, h⟩
      rcases List.mem_cons.mp hc with rfl | hc
      · exact hij
      · exact lt_trans hij (hj c hc)
    · split
      · rename_i hij
        subst hij
        exact List.pairwise_cons.mpr ⟨hj, hm⟩
      · refine List.pairwise_cons.mpr ⟨fun c hc => ?_, ih hm⟩
        rcases Memory.mem_write m i b c hc with hc | hc
        · show j < c.1
          omega
        · exact hj c hc

/-- Reading a listed slot gives its byte, wherever the memory is canonical or not. -/
theorem Memory.read_mem (m : Memory) (i : Nat) (b : Byte) (h : Memory.read m i = some b) :
    (i, b) ∈ m := by
  induction m with
  | nil => simp [Memory.read] at h
  | cons d m ih =>
    obtain ⟨j, d⟩ := d
    unfold Memory.read at h
    split at h
    · simp_all
    · exact List.mem_cons_of_mem _ (ih h)

end Sys2Proof.Machine
end

