-- ==== Sys2Proof/Laws/State.lean ====
section
/-! SUPPORT. One lemma per field per named update, true by `rfl`. -/

namespace Sys2Proof.Machine

/-! ### `respond` -/
@[simp] theorem respond_state (d : Nat) (v : Bool) (s : State) : (respond d v s).state = s.state := rfl
@[simp] theorem respond_sr (d : Nat) (v : Bool) (s : State) : (respond d v s).sr = s.sr := rfl
@[simp] theorem respond_bitcnt (d : Nat) (v : Bool) (s : State) : (respond d v s).bitcnt = s.bitcnt := rfl
@[simp] theorem respond_edge_en (d : Nat) (v : Bool) (s : State) : (respond d v s).edge_en = s.edge_en := rfl
@[simp] theorem respond_sr_clk_en (d : Nat) (v : Bool) (s : State) : (respond d v s).sr_clk_en = s.sr_clk_en := rfl
@[simp] theorem respond_tmr_ie (d : Nat) (v : Bool) (s : State) : (respond d v s).tmr_ie = s.tmr_ie := rfl
@[simp] theorem respond_tmr_run (d : Nat) (v : Bool) (s : State) : (respond d v s).tmr_run = s.tmr_run := rfl
@[simp] theorem respond_tcnt (d : Nat) (v : Bool) (s : State) : (respond d v s).tcnt = s.tcnt := rfl
@[simp] theorem respond_rx_prev (d : Nat) (v : Bool) (s : State) : (respond d v s).rx_prev = s.rx_prev := rfl
@[simp] theorem respond_buf (d : Nat) (v : Bool) (s : State) : (respond d v s).buf = s.buf := rfl
@[simp] theorem respond_head (d : Nat) (v : Bool) (s : State) : (respond d v s).head = s.head := rfl
@[simp] theorem respond_count (d : Nat) (v : Bool) (s : State) : (respond d v s).count = s.count := rfl
@[simp] theorem respond_overflowed (d : Nat) (v : Bool) (s : State) : (respond d v s).overflowed = s.overflowed := rfl
@[simp] theorem respond_ferr_cnt (d : Nat) (v : Bool) (s : State) : (respond d v s).ferr_cnt = s.ferr_cnt := rfl
@[simp] theorem respond_brk_cnt (d : Nat) (v : Bool) (s : State) : (respond d v s).brk_cnt = s.brk_cnt := rfl
@[simp] theorem respond_cfg (d : Nat) (v : Bool) (s : State) : (respond d v s).cfg = s.cfg := rfl
@[simp] theorem respond_resp (d : Nat) (v : Bool) (s : State) : (respond d v s).resp = some ⟨d, v⟩ := rfl
@[simp] theorem respond_input (d : Nat) (v : Bool) (s : State) : (respond d v s).input = s.input := rfl

/-! ### `memWrite` -/
@[simp] theorem memWrite_state (i : Nat) (b : Byte) (s : State) : (memWrite i b s).state = s.state := rfl
@[simp] theorem memWrite_sr (i : Nat) (b : Byte) (s : State) : (memWrite i b s).sr = s.sr := rfl
@[simp] theorem memWrite_bitcnt (i : Nat) (b : Byte) (s : State) : (memWrite i b s).bitcnt = s.bitcnt := rfl
@[simp] theorem memWrite_edge_en (i : Nat) (b : Byte) (s : State) : (memWrite i b s).edge_en = s.edge_en := rfl
@[simp] theorem memWrite_sr_clk_en (i : Nat) (b : Byte) (s : State) : (memWrite i b s).sr_clk_en = s.sr_clk_en := rfl
@[simp] theorem memWrite_tmr_ie (i : Nat) (b : Byte) (s : State) : (memWrite i b s).tmr_ie = s.tmr_ie := rfl
@[simp] theorem memWrite_tmr_run (i : Nat) (b : Byte) (s : State) : (memWrite i b s).tmr_run = s.tmr_run := rfl
@[simp] theorem memWrite_tcnt (i : Nat) (b : Byte) (s : State) : (memWrite i b s).tcnt = s.tcnt := rfl
@[simp] theorem memWrite_rx_prev (i : Nat) (b : Byte) (s : State) : (memWrite i b s).rx_prev = s.rx_prev := rfl
@[simp] theorem memWrite_buf (i : Nat) (b : Byte) (s : State) : (memWrite i b s).buf = Memory.write s.buf i b := rfl
@[simp] theorem memWrite_head (i : Nat) (b : Byte) (s : State) : (memWrite i b s).head = s.head := rfl
@[simp] theorem memWrite_count (i : Nat) (b : Byte) (s : State) : (memWrite i b s).count = s.count := rfl
@[simp] theorem memWrite_overflowed (i : Nat) (b : Byte) (s : State) : (memWrite i b s).overflowed = s.overflowed := rfl
@[simp] theorem memWrite_ferr_cnt (i : Nat) (b : Byte) (s : State) : (memWrite i b s).ferr_cnt = s.ferr_cnt := rfl
@[simp] theorem memWrite_brk_cnt (i : Nat) (b : Byte) (s : State) : (memWrite i b s).brk_cnt = s.brk_cnt := rfl
@[simp] theorem memWrite_cfg (i : Nat) (b : Byte) (s : State) : (memWrite i b s).cfg = s.cfg := rfl
@[simp] theorem memWrite_resp (i : Nat) (b : Byte) (s : State) : (memWrite i b s).resp = s.resp := rfl
@[simp] theorem memWrite_input (i : Nat) (b : Byte) (s : State) : (memWrite i b s).input = s.input := rfl

/-! ### `timerStop` -/
@[simp] theorem timerStop_state (s : State) : (timerStop s).state = s.state := rfl
@[simp] theorem timerStop_sr (s : State) : (timerStop s).sr = s.sr := rfl
@[simp] theorem timerStop_bitcnt (s : State) : (timerStop s).bitcnt = s.bitcnt := rfl
@[simp] theorem timerStop_edge_en (s : State) : (timerStop s).edge_en = s.edge_en := rfl
@[simp] theorem timerStop_sr_clk_en (s : State) : (timerStop s).sr_clk_en = s.sr_clk_en := rfl
@[simp] theorem timerStop_tmr_ie (s : State) : (timerStop s).tmr_ie = s.tmr_ie := rfl
@[simp] theorem timerStop_tmr_run (s : State) : (timerStop s).tmr_run = false := rfl
@[simp] theorem timerStop_tcnt (s : State) : (timerStop s).tcnt = 0 := rfl
@[simp] theorem timerStop_rx_prev (s : State) : (timerStop s).rx_prev = s.rx_prev := rfl
@[simp] theorem timerStop_buf (s : State) : (timerStop s).buf = s.buf := rfl
@[simp] theorem timerStop_head (s : State) : (timerStop s).head = s.head := rfl
@[simp] theorem timerStop_count (s : State) : (timerStop s).count = s.count := rfl
@[simp] theorem timerStop_overflowed (s : State) : (timerStop s).overflowed = s.overflowed := rfl
@[simp] theorem timerStop_ferr_cnt (s : State) : (timerStop s).ferr_cnt = s.ferr_cnt := rfl
@[simp] theorem timerStop_brk_cnt (s : State) : (timerStop s).brk_cnt = s.brk_cnt := rfl
@[simp] theorem timerStop_cfg (s : State) : (timerStop s).cfg = s.cfg := rfl
@[simp] theorem timerStop_resp (s : State) : (timerStop s).resp = s.resp := rfl
@[simp] theorem timerStop_input (s : State) : (timerStop s).input = s.input := rfl

/-! ### `trackLine` -/
@[simp] theorem trackLine_state (rx : Level) (s : State) : (trackLine rx s).state = s.state := rfl
@[simp] theorem trackLine_sr (rx : Level) (s : State) : (trackLine rx s).sr = s.sr := rfl
@[simp] theorem trackLine_bitcnt (rx : Level) (s : State) : (trackLine rx s).bitcnt = s.bitcnt := rfl
@[simp] theorem trackLine_edge_en (rx : Level) (s : State) : (trackLine rx s).edge_en = s.edge_en := rfl
@[simp] theorem trackLine_sr_clk_en (rx : Level) (s : State) : (trackLine rx s).sr_clk_en = s.sr_clk_en := rfl
@[simp] theorem trackLine_tmr_ie (rx : Level) (s : State) : (trackLine rx s).tmr_ie = s.tmr_ie := rfl
@[simp] theorem trackLine_tmr_run (rx : Level) (s : State) : (trackLine rx s).tmr_run = s.tmr_run := rfl
@[simp] theorem trackLine_tcnt (rx : Level) (s : State) : (trackLine rx s).tcnt = s.tcnt := rfl
@[simp] theorem trackLine_rx_prev (rx : Level) (s : State) : (trackLine rx s).rx_prev = rx := rfl
@[simp] theorem trackLine_buf (rx : Level) (s : State) : (trackLine rx s).buf = s.buf := rfl
@[simp] theorem trackLine_head (rx : Level) (s : State) : (trackLine rx s).head = s.head := rfl
@[simp] theorem trackLine_count (rx : Level) (s : State) : (trackLine rx s).count = s.count := rfl
@[simp] theorem trackLine_overflowed (rx : Level) (s : State) : (trackLine rx s).overflowed = s.overflowed := rfl
@[simp] theorem trackLine_ferr_cnt (rx : Level) (s : State) : (trackLine rx s).ferr_cnt = s.ferr_cnt := rfl
@[simp] theorem trackLine_brk_cnt (rx : Level) (s : State) : (trackLine rx s).brk_cnt = s.brk_cnt := rfl
@[simp] theorem trackLine_cfg (rx : Level) (s : State) : (trackLine rx s).cfg = s.cfg := rfl
@[simp] theorem trackLine_resp (rx : Level) (s : State) : (trackLine rx s).resp = s.resp := rfl
@[simp] theorem trackLine_input (rx : Level) (s : State) : (trackLine rx s).input = s.input := rfl

/-! ### `setOverflowed` -/
@[simp] theorem setOverflowed_state (s : State) : (setOverflowed s).state = s.state := rfl
@[simp] theorem setOverflowed_sr (s : State) : (setOverflowed s).sr = s.sr := rfl
@[simp] theorem setOverflowed_bitcnt (s : State) : (setOverflowed s).bitcnt = s.bitcnt := rfl
@[simp] theorem setOverflowed_edge_en (s : State) : (setOverflowed s).edge_en = s.edge_en := rfl
@[simp] theorem setOverflowed_sr_clk_en (s : State) : (setOverflowed s).sr_clk_en = s.sr_clk_en := rfl
@[simp] theorem setOverflowed_tmr_ie (s : State) : (setOverflowed s).tmr_ie = s.tmr_ie := rfl
@[simp] theorem setOverflowed_tmr_run (s : State) : (setOverflowed s).tmr_run = s.tmr_run := rfl
@[simp] theorem setOverflowed_tcnt (s : State) : (setOverflowed s).tcnt = s.tcnt := rfl
@[simp] theorem setOverflowed_rx_prev (s : State) : (setOverflowed s).rx_prev = s.rx_prev := rfl
@[simp] theorem setOverflowed_buf (s : State) : (setOverflowed s).buf = s.buf := rfl
@[simp] theorem setOverflowed_head (s : State) : (setOverflowed s).head = s.head := rfl
@[simp] theorem setOverflowed_count (s : State) : (setOverflowed s).count = s.count := rfl
@[simp] theorem setOverflowed_overflowed (s : State) : (setOverflowed s).overflowed = true := rfl
@[simp] theorem setOverflowed_ferr_cnt (s : State) : (setOverflowed s).ferr_cnt = s.ferr_cnt := rfl
@[simp] theorem setOverflowed_brk_cnt (s : State) : (setOverflowed s).brk_cnt = s.brk_cnt := rfl
@[simp] theorem setOverflowed_cfg (s : State) : (setOverflowed s).cfg = s.cfg := rfl
@[simp] theorem setOverflowed_resp (s : State) : (setOverflowed s).resp = s.resp := rfl
@[simp] theorem setOverflowed_input (s : State) : (setOverflowed s).input = s.input := rfl

/-! ### `clearOverflowed` -/
@[simp] theorem clearOverflowed_state (s : State) : (clearOverflowed s).state = s.state := rfl
@[simp] theorem clearOverflowed_sr (s : State) : (clearOverflowed s).sr = s.sr := rfl
@[simp] theorem clearOverflowed_bitcnt (s : State) : (clearOverflowed s).bitcnt = s.bitcnt := rfl
@[simp] theorem clearOverflowed_edge_en (s : State) : (clearOverflowed s).edge_en = s.edge_en := rfl
@[simp] theorem clearOverflowed_sr_clk_en (s : State) : (clearOverflowed s).sr_clk_en = s.sr_clk_en := rfl
@[simp] theorem clearOverflowed_tmr_ie (s : State) : (clearOverflowed s).tmr_ie = s.tmr_ie := rfl
@[simp] theorem clearOverflowed_tmr_run (s : State) : (clearOverflowed s).tmr_run = s.tmr_run := rfl
@[simp] theorem clearOverflowed_tcnt (s : State) : (clearOverflowed s).tcnt = s.tcnt := rfl
@[simp] theorem clearOverflowed_rx_prev (s : State) : (clearOverflowed s).rx_prev = s.rx_prev := rfl
@[simp] theorem clearOverflowed_buf (s : State) : (clearOverflowed s).buf = s.buf := rfl
@[simp] theorem clearOverflowed_head (s : State) : (clearOverflowed s).head = s.head := rfl
@[simp] theorem clearOverflowed_count (s : State) : (clearOverflowed s).count = s.count := rfl
@[simp] theorem clearOverflowed_overflowed (s : State) : (clearOverflowed s).overflowed = false := rfl
@[simp] theorem clearOverflowed_ferr_cnt (s : State) : (clearOverflowed s).ferr_cnt = s.ferr_cnt := rfl
@[simp] theorem clearOverflowed_brk_cnt (s : State) : (clearOverflowed s).brk_cnt = s.brk_cnt := rfl
@[simp] theorem clearOverflowed_cfg (s : State) : (clearOverflowed s).cfg = s.cfg := rfl
@[simp] theorem clearOverflowed_resp (s : State) : (clearOverflowed s).resp = s.resp := rfl
@[simp] theorem clearOverflowed_input (s : State) : (clearOverflowed s).input = s.input := rfl

/-! ### `countBreak` -/
@[simp] theorem countBreak_state (s : State) : (countBreak s).state = s.state := rfl
@[simp] theorem countBreak_sr (s : State) : (countBreak s).sr = s.sr := rfl
@[simp] theorem countBreak_bitcnt (s : State) : (countBreak s).bitcnt = s.bitcnt := rfl
@[simp] theorem countBreak_edge_en (s : State) : (countBreak s).edge_en = s.edge_en := rfl
@[simp] theorem countBreak_sr_clk_en (s : State) : (countBreak s).sr_clk_en = s.sr_clk_en := rfl
@[simp] theorem countBreak_tmr_ie (s : State) : (countBreak s).tmr_ie = s.tmr_ie := rfl
@[simp] theorem countBreak_tmr_run (s : State) : (countBreak s).tmr_run = s.tmr_run := rfl
@[simp] theorem countBreak_tcnt (s : State) : (countBreak s).tcnt = s.tcnt := rfl
@[simp] theorem countBreak_rx_prev (s : State) : (countBreak s).rx_prev = s.rx_prev := rfl
@[simp] theorem countBreak_buf (s : State) : (countBreak s).buf = s.buf := rfl
@[simp] theorem countBreak_head (s : State) : (countBreak s).head = s.head := rfl
@[simp] theorem countBreak_count (s : State) : (countBreak s).count = s.count := rfl
@[simp] theorem countBreak_overflowed (s : State) : (countBreak s).overflowed = s.overflowed := rfl
@[simp] theorem countBreak_ferr_cnt (s : State) : (countBreak s).ferr_cnt = s.ferr_cnt := rfl
@[simp] theorem countBreak_brk_cnt (s : State) : (countBreak s).brk_cnt = satInc8 s.brk_cnt := rfl
@[simp] theorem countBreak_cfg (s : State) : (countBreak s).cfg = s.cfg := rfl
@[simp] theorem countBreak_resp (s : State) : (countBreak s).resp = s.resp := rfl
@[simp] theorem countBreak_input (s : State) : (countBreak s).input = s.input := rfl

/-! ### `countFramingError` -/
@[simp] theorem countFramingError_state (s : State) : (countFramingError s).state = s.state := rfl
@[simp] theorem countFramingError_sr (s : State) : (countFramingError s).sr = s.sr := rfl
@[simp] theorem countFramingError_bitcnt (s : State) : (countFramingError s).bitcnt = s.bitcnt := rfl
@[simp] theorem countFramingError_edge_en (s : State) : (countFramingError s).edge_en = s.edge_en := rfl
@[simp] theorem countFramingError_sr_clk_en (s : State) : (countFramingError s).sr_clk_en = s.sr_clk_en := rfl
@[simp] theorem countFramingError_tmr_ie (s : State) : (countFramingError s).tmr_ie = s.tmr_ie := rfl
@[simp] theorem countFramingError_tmr_run (s : State) : (countFramingError s).tmr_run = s.tmr_run := rfl
@[simp] theorem countFramingError_tcnt (s : State) : (countFramingError s).tcnt = s.tcnt := rfl
@[simp] theorem countFramingError_rx_prev (s : State) : (countFramingError s).rx_prev = s.rx_prev := rfl
@[simp] theorem countFramingError_buf (s : State) : (countFramingError s).buf = s.buf := rfl
@[simp] theorem countFramingError_head (s : State) : (countFramingError s).head = s.head := rfl
@[simp] theorem countFramingError_count (s : State) : (countFramingError s).count = s.count := rfl
@[simp] theorem countFramingError_overflowed (s : State) : (countFramingError s).overflowed = s.overflowed := rfl
@[simp] theorem countFramingError_ferr_cnt (s : State) : (countFramingError s).ferr_cnt = satInc8 s.ferr_cnt := rfl
@[simp] theorem countFramingError_brk_cnt (s : State) : (countFramingError s).brk_cnt = s.brk_cnt := rfl
@[simp] theorem countFramingError_cfg (s : State) : (countFramingError s).cfg = s.cfg := rfl
@[simp] theorem countFramingError_resp (s : State) : (countFramingError s).resp = s.resp := rfl
@[simp] theorem countFramingError_input (s : State) : (countFramingError s).input = s.input := rfl

/-! ### `dropOldest` -/
@[simp] theorem dropOldest_state (s : State) : (dropOldest s).state = s.state := rfl
@[simp] theorem dropOldest_sr (s : State) : (dropOldest s).sr = s.sr := rfl
@[simp] theorem dropOldest_bitcnt (s : State) : (dropOldest s).bitcnt = s.bitcnt := rfl
@[simp] theorem dropOldest_edge_en (s : State) : (dropOldest s).edge_en = s.edge_en := rfl
@[simp] theorem dropOldest_sr_clk_en (s : State) : (dropOldest s).sr_clk_en = s.sr_clk_en := rfl
@[simp] theorem dropOldest_tmr_ie (s : State) : (dropOldest s).tmr_ie = s.tmr_ie := rfl
@[simp] theorem dropOldest_tmr_run (s : State) : (dropOldest s).tmr_run = s.tmr_run := rfl
@[simp] theorem dropOldest_tcnt (s : State) : (dropOldest s).tcnt = s.tcnt := rfl
@[simp] theorem dropOldest_rx_prev (s : State) : (dropOldest s).rx_prev = s.rx_prev := rfl
@[simp] theorem dropOldest_buf (s : State) : (dropOldest s).buf = s.buf := rfl
@[simp] theorem dropOldest_head (s : State) : (dropOldest s).head = (s.head + 1) % s.cfg.cap := rfl
@[simp] theorem dropOldest_count (s : State) : (dropOldest s).count = s.count - 1 := rfl
@[simp] theorem dropOldest_overflowed (s : State) : (dropOldest s).overflowed = s.overflowed := rfl
@[simp] theorem dropOldest_ferr_cnt (s : State) : (dropOldest s).ferr_cnt = s.ferr_cnt := rfl
@[simp] theorem dropOldest_brk_cnt (s : State) : (dropOldest s).brk_cnt = s.brk_cnt := rfl
@[simp] theorem dropOldest_cfg (s : State) : (dropOldest s).cfg = s.cfg := rfl
@[simp] theorem dropOldest_resp (s : State) : (dropOldest s).resp = s.resp := rfl
@[simp] theorem dropOldest_input (s : State) : (dropOldest s).input = s.input := rfl

/-! ### `startFrame` -/
@[simp] theorem startFrame_state (s : State) : (startFrame s).state = .sampling := rfl
@[simp] theorem startFrame_sr (s : State) : (startFrame s).sr = 0x00#8 := rfl
@[simp] theorem startFrame_bitcnt (s : State) : (startFrame s).bitcnt = 0#4 := rfl
@[simp] theorem startFrame_edge_en (s : State) : (startFrame s).edge_en = false := rfl
@[simp] theorem startFrame_sr_clk_en (s : State) : (startFrame s).sr_clk_en = true := rfl
@[simp] theorem startFrame_tmr_ie (s : State) : (startFrame s).tmr_ie = s.tmr_ie := rfl
@[simp] theorem startFrame_tmr_run (s : State) : (startFrame s).tmr_run = true := rfl
@[simp] theorem startFrame_tcnt (s : State) : (startFrame s).tcnt = s.cfg.firstTicks := rfl
@[simp] theorem startFrame_rx_prev (s : State) : (startFrame s).rx_prev = s.rx_prev := rfl
@[simp] theorem startFrame_buf (s : State) : (startFrame s).buf = s.buf := rfl
@[simp] theorem startFrame_head (s : State) : (startFrame s).head = s.head := rfl
@[simp] theorem startFrame_count (s : State) : (startFrame s).count = s.count := rfl
@[simp] theorem startFrame_overflowed (s : State) : (startFrame s).overflowed = s.overflowed := rfl
@[simp] theorem startFrame_ferr_cnt (s : State) : (startFrame s).ferr_cnt = s.ferr_cnt := rfl
@[simp] theorem startFrame_brk_cnt (s : State) : (startFrame s).brk_cnt = s.brk_cnt := rfl
@[simp] theorem startFrame_cfg (s : State) : (startFrame s).cfg = s.cfg := rfl
@[simp] theorem startFrame_resp (s : State) : (startFrame s).resp = s.resp := rfl
@[simp] theorem startFrame_input (s : State) : (startFrame s).input = s.input := rfl

/-! ### `completeSampling` -/
@[simp] theorem completeSampling_state (s : State) : (completeSampling s).state = .validatingFrame := rfl
@[simp] theorem completeSampling_sr (s : State) : (completeSampling s).sr = s.sr := rfl
@[simp] theorem completeSampling_bitcnt (s : State) : (completeSampling s).bitcnt = s.bitcnt := rfl
@[simp] theorem completeSampling_edge_en (s : State) : (completeSampling s).edge_en = s.edge_en := rfl
@[simp] theorem completeSampling_sr_clk_en (s : State) : (completeSampling s).sr_clk_en = false := rfl
@[simp] theorem completeSampling_tmr_ie (s : State) : (completeSampling s).tmr_ie = true := rfl
@[simp] theorem completeSampling_tmr_run (s : State) : (completeSampling s).tmr_run = s.tmr_run := rfl
@[simp] theorem completeSampling_tcnt (s : State) : (completeSampling s).tcnt = s.tcnt := rfl
@[simp] theorem completeSampling_rx_prev (s : State) : (completeSampling s).rx_prev = s.rx_prev := rfl
@[simp] theorem completeSampling_buf (s : State) : (completeSampling s).buf = s.buf := rfl
@[simp] theorem completeSampling_head (s : State) : (completeSampling s).head = s.head := rfl
@[simp] theorem completeSampling_count (s : State) : (completeSampling s).count = s.count := rfl
@[simp] theorem completeSampling_overflowed (s : State) : (completeSampling s).overflowed = s.overflowed := rfl
@[simp] theorem completeSampling_ferr_cnt (s : State) : (completeSampling s).ferr_cnt = s.ferr_cnt := rfl
@[simp] theorem completeSampling_brk_cnt (s : State) : (completeSampling s).brk_cnt = s.brk_cnt := rfl
@[simp] theorem completeSampling_cfg (s : State) : (completeSampling s).cfg = s.cfg := rfl
@[simp] theorem completeSampling_resp (s : State) : (completeSampling s).resp = s.resp := rfl
@[simp] theorem completeSampling_input (s : State) : (completeSampling s).input = s.input := rfl

/-! ### `rearm` -/
@[simp] theorem rearm_state (s : State) : (rearm s).state = .idle := rfl
@[simp] theorem rearm_sr (s : State) : (rearm s).sr = s.sr := rfl
@[simp] theorem rearm_bitcnt (s : State) : (rearm s).bitcnt = s.bitcnt := rfl
@[simp] theorem rearm_edge_en (s : State) : (rearm s).edge_en = true := rfl
@[simp] theorem rearm_sr_clk_en (s : State) : (rearm s).sr_clk_en = s.sr_clk_en := rfl
@[simp] theorem rearm_tmr_ie (s : State) : (rearm s).tmr_ie = s.tmr_ie := rfl
@[simp] theorem rearm_tmr_run (s : State) : (rearm s).tmr_run = s.tmr_run := rfl
@[simp] theorem rearm_tcnt (s : State) : (rearm s).tcnt = s.tcnt := rfl
@[simp] theorem rearm_rx_prev (s : State) : (rearm s).rx_prev = s.rx_prev := rfl
@[simp] theorem rearm_buf (s : State) : (rearm s).buf = s.buf := rfl
@[simp] theorem rearm_head (s : State) : (rearm s).head = s.head := rfl
@[simp] theorem rearm_count (s : State) : (rearm s).count = s.count := rfl
@[simp] theorem rearm_overflowed (s : State) : (rearm s).overflowed = s.overflowed := rfl
@[simp] theorem rearm_ferr_cnt (s : State) : (rearm s).ferr_cnt = s.ferr_cnt := rfl
@[simp] theorem rearm_brk_cnt (s : State) : (rearm s).brk_cnt = s.brk_cnt := rfl
@[simp] theorem rearm_cfg (s : State) : (rearm s).cfg = s.cfg := rfl
@[simp] theorem rearm_resp (s : State) : (rearm s).resp = s.resp := rfl
@[simp] theorem rearm_input (s : State) : (rearm s).input = s.input := rfl

/-! ### `beginReception` -/
@[simp] theorem beginReception_state (s : State) : (beginReception s).state = .idle := rfl
@[simp] theorem beginReception_sr (s : State) : (beginReception s).sr = 0x00#8 := rfl
@[simp] theorem beginReception_bitcnt (s : State) : (beginReception s).bitcnt = 0#4 := rfl
@[simp] theorem beginReception_edge_en (s : State) : (beginReception s).edge_en = true := rfl
@[simp] theorem beginReception_sr_clk_en (s : State) : (beginReception s).sr_clk_en = false := rfl
@[simp] theorem beginReception_tmr_ie (s : State) : (beginReception s).tmr_ie = false := rfl
@[simp] theorem beginReception_tmr_run (s : State) : (beginReception s).tmr_run = false := rfl
@[simp] theorem beginReception_tcnt (s : State) : (beginReception s).tcnt = 0 := rfl
@[simp] theorem beginReception_rx_prev (s : State) : (beginReception s).rx_prev = s.rx_prev := rfl
@[simp] theorem beginReception_buf (s : State) : (beginReception s).buf = s.buf := rfl
@[simp] theorem beginReception_head (s : State) : (beginReception s).head = 0 := rfl
@[simp] theorem beginReception_count (s : State) : (beginReception s).count = 0 := rfl
@[simp] theorem beginReception_overflowed (s : State) : (beginReception s).overflowed = false := rfl
@[simp] theorem beginReception_ferr_cnt (s : State) : (beginReception s).ferr_cnt = 0#8 := rfl
@[simp] theorem beginReception_brk_cnt (s : State) : (beginReception s).brk_cnt = 0#8 := rfl
@[simp] theorem beginReception_cfg (s : State) : (beginReception s).cfg = s.cfg := rfl
@[simp] theorem beginReception_resp (s : State) : (beginReception s).resp = s.resp := rfl
@[simp] theorem beginReception_input (s : State) : (beginReception s).input = s.input := rfl

/-! ### `hardReset` -/
@[simp] theorem hardReset_state (s : State) : (hardReset s).state = .idle := rfl
@[simp] theorem hardReset_sr (s : State) : (hardReset s).sr = 0x00#8 := rfl
@[simp] theorem hardReset_bitcnt (s : State) : (hardReset s).bitcnt = 0#4 := rfl
@[simp] theorem hardReset_edge_en (s : State) : (hardReset s).edge_en = false := rfl
@[simp] theorem hardReset_sr_clk_en (s : State) : (hardReset s).sr_clk_en = false := rfl
@[simp] theorem hardReset_tmr_ie (s : State) : (hardReset s).tmr_ie = false := rfl
@[simp] theorem hardReset_tmr_run (s : State) : (hardReset s).tmr_run = false := rfl
@[simp] theorem hardReset_tcnt (s : State) : (hardReset s).tcnt = 0 := rfl
@[simp] theorem hardReset_rx_prev (s : State) : (hardReset s).rx_prev = false := rfl
@[simp] theorem hardReset_buf (s : State) : (hardReset s).buf = s.buf := rfl
@[simp] theorem hardReset_head (s : State) : (hardReset s).head = 0 := rfl
@[simp] theorem hardReset_count (s : State) : (hardReset s).count = 0 := rfl
@[simp] theorem hardReset_overflowed (s : State) : (hardReset s).overflowed = false := rfl
@[simp] theorem hardReset_ferr_cnt (s : State) : (hardReset s).ferr_cnt = 0#8 := rfl
@[simp] theorem hardReset_brk_cnt (s : State) : (hardReset s).brk_cnt = 0#8 := rfl
@[simp] theorem hardReset_cfg (s : State) : (hardReset s).cfg = s.cfg := rfl
@[simp] theorem hardReset_resp (s : State) : (hardReset s).resp = none := rfl
@[simp] theorem hardReset_input (s : State) : (hardReset s).input = s.input := rfl

end Sys2Proof.Machine
end

