-- ==== Sys2Proof/Laws/Ops.lean ====
section
/-! SUPPORT. What each shared operation can do, said once. -/

namespace Sys2Proof.Machine

/-! ### The timer (R91) -/

theorem timerAdvance_stopped (s : State) (h : s.tmr_run = false) :
    timerAdvance s = (false, s) := by simp [timerAdvance, h]

theorem timerAdvance_compare (s : State) (h : s.tmr_run = true) (h1 : s.tcnt = 1) :
    timerAdvance s = (true, { s with tcnt := s.cfg.bitTicks }) := by simp [timerAdvance, h, h1]

theorem timerAdvance_count (s : State) (h : s.tmr_run = true) (h1 : s.tcnt ≠ 1) :
    timerAdvance s = (false, { s with tcnt := s.tcnt - 1 }) := by simp [timerAdvance, h, h1]

/-- The timer writes nothing but its counter. -/
theorem timerAdvance_frame (s : State) :
    (timerAdvance s).2 = { s with tcnt := (timerAdvance s).2.tcnt } := by
  unfold timerAdvance; split <;> [rfl; split <;> rfl]

/-- A tick is a compare event exactly when the timer runs and one tick is left. -/
theorem timerAdvance_fst (s : State) :
    (timerAdvance s).1 = true ↔ s.tmr_run = true ∧ s.tcnt = 1 := by
  unfold timerAdvance; split <;> [simp_all; split <;> simp_all]

/-! ### The queue (R60) -/

theorem push_notFull (b : Byte) (s : State) (h : s.count < s.cfg.cap) :
    push b s = (.ok, { memWrite (pushIndex s) b s with count := s.count + 1 }) := by
  simp [push, h]

theorem push_full (b : Byte) (s : State) (h : s.cfg.cap ≤ s.count) :
    push b s = (.overflow, setOverflowed s) := by
  simp [push, Nat.not_lt.mpr h]

theorem Config.cap_pos (c : Config) : 0 < c.cap := Nat.two_pow_pos c.k

theorem slotIndex_lt (s : State) (j : Nat) : slotIndex s j < s.cfg.cap :=
  Nat.mod_lt _ (Config.cap_pos s.cfg)

/-- Two positions of the queue less than a whole turn apart lie in different slots. -/
theorem slotIndex_ne (s : State) (i j : Nat) (hij : i < j) (h : j < i + s.cfg.cap) :
    slotIndex s i ≠ slotIndex s j := by
  unfold slotIndex
  intro e
  have e' : s.head + i ≡ s.head + j [MOD s.cfg.cap] := e
  have := (Nat.modEq_iff_dvd' (by omega)).mp e'
  have hd : s.head + j - (s.head + i) = j - i := by omega
  rw [hd] at this
  exact absurd (Nat.le_of_dvd (by omega) this) (by omega)

/-! ### The meanings -/

@[simp] theorem exec_nop (s : State) : exec .nop s = .next (respond 0 false s) := rfl
@[simp] theorem exec_begin (s : State) :
    exec .begin s = .next (respond 0 false (beginReception s)) := rfl
@[simp] theorem exec_avail (s : State) : exec .avail s = .next (respond s.count true s) := rfl
@[simp] theorem exec_ovf (s : State) :
    exec .ovf s = .next (respond s.overflowed.toNat true (clearOverflowed s)) := rfl
@[simp] theorem exec_ferrc (s : State) :
    exec .ferrc s = .next (respond s.ferr_cnt.toNat true s) := rfl
@[simp] theorem exec_brkc (s : State) :
    exec .brkc s = .next (respond s.brk_cnt.toNat true s) := rfl

theorem exec_read_empty (s : State) (h : s.count = 0) :
    exec .read s = .next (respond 0 false s) := by
  simp [exec, execRead, h]

theorem exec_read_nonempty (s : State) (h : s.count ≠ 0) :
    exec .read s = .next (respond (memRead s s.head).toNat true (dropOldest s)) := by
  simp [exec, execRead, h]

/-- What a command may do, once for all seven: answer, and for `BEGIN`, `READ` and `OVF` one update. -/
theorem command_cases (i : Instr) (s t : State) (hi : ∀ rx, i ≠ .tick rx)
    (h : exec i s = .next t) :
    (i = .begin ∧ t = respond 0 false (beginReception s)) ∨
    (i = .read ∧ s.count ≠ 0 ∧ t = respond (memRead s s.head).toNat true (dropOldest s)) ∨
    (i = .ovf ∧ t = respond s.overflowed.toNat true (clearOverflowed s)) ∨
    (i ≠ .begin ∧ i ≠ .ovf ∧ (i = .read → s.count = 0) ∧
      ∃ d v, t = respond d v s ∧ (d = 0 ∨ d = s.count ∨ d < 256)) := by
  cases i with
  | tick rx => exact absurd rfl (hi rx)
  | begin => exact .inl ⟨rfl, by simpa using h.symm⟩
  | ovf => exact .inr (.inr (.inl ⟨rfl, by simpa using h.symm⟩))
  | read =>
    by_cases hc : s.count = 0
    · rw [exec_read_empty s hc] at h
      exact .inr (.inr (.inr ⟨nofun, nofun, fun _ => hc, 0, false, by simpa using h.symm, .inl rfl⟩))
    · rw [exec_read_nonempty s hc] at h
      exact .inr (.inl ⟨rfl, hc, by simpa using h.symm⟩)
  | nop => exact .inr (.inr (.inr ⟨nofun, nofun, nofun, _, _, by simpa using h.symm, .inl rfl⟩))
  | avail =>
    exact .inr (.inr (.inr ⟨nofun, nofun, nofun, _, _, by simpa using h.symm, .inr (.inl rfl)⟩))
  | ferrc =>
    exact .inr (.inr (.inr
      ⟨nofun, nofun, nofun, _, _, by simpa using h.symm, .inr (.inr s.ferr_cnt.isLt)⟩))
  | brkc =>
    exact .inr (.inr (.inr
      ⟨nofun, nofun, nofun, _, _, by simpa using h.symm, .inr (.inr s.brk_cnt.isLt)⟩))

/-- What a tick may do, once: start a frame, take a data sample, validate, or (quiet) let the timer
count and the line be followed. -/
theorem tick_cases (rx : Level) (s t : State) (h : exec (.tick rx) s = .next t) :
    (s.state = .idle ∧ s.edge_en = true ∧ s.rx_prev = true ∧ rx = false ∧
      t = trackLine rx (startFrame (timerAdvance s).2)) ∨
    (s.state = .sampling ∧ s.sr_clk_en = true ∧ s.tmr_run = true ∧ s.tcnt = 1 ∧
      t = trackLine rx (shiftIn rx { s with tcnt := s.cfg.bitTicks })) ∨
    (Validates s ∧ t = trackLine rx (validate rx { s with tcnt := s.cfg.bitTicks })) ∨
    (¬ (s.state = .idle ∧ s.edge_en = true ∧ s.rx_prev = true ∧ rx = false) ∧
      ¬ (s.state = .sampling ∧ s.sr_clk_en = true ∧ s.tmr_run = true ∧ s.tcnt = 1) ∧
      ¬ Validates s ∧ t = trackLine rx (timerAdvance s).2) := by
  have ht : t = trackLine rx (handleEvent (timerAdvance s).1 rx (timerAdvance s).2) := by
    simpa [exec, execTick] using h.symm
  subst ht
  have hst : (timerAdvance s).2.state = s.state := by rw [timerAdvance_frame]
  have hsr : (timerAdvance s).2.sr_clk_en = s.sr_clk_en := by rw [timerAdvance_frame]
  have hti : (timerAdvance s).2.tmr_ie = s.tmr_ie := by rw [timerAdvance_frame]
  have hee : (timerAdvance s).2.edge_en = s.edge_en := by rw [timerAdvance_frame]
  have hrp : (timerAdvance s).2.rx_prev = s.rx_prev := by rw [timerAdvance_frame]
  unfold handleEvent
  rw [hst]
  cases hs : s.state with
  | idle =>
    simp only [detectEdge, edgeEvent, hee, hrp]
    cases he : s.edge_en <;> cases hp : s.rx_prev <;> cases rx <;>
      simp [Validates, hs, he, hp]
  | sampling =>
    rw [hsr]
    by_cases hc : (timerAdvance s).1 = true
    · have h2 := (timerAdvance_fst s).mp hc
      cases hk : s.sr_clk_en <;>
        simp [Validates, hs, hk, timerAdvance_compare s h2.1 h2.2, h2.1, h2.2]
    · have h2 := fun x => hc ((timerAdvance_fst s).mpr x)
      simp only [Bool.not_eq_true] at hc
      simp [Validates, hs, hc]
      tauto
  | validatingFrame =>
    rw [hti]
    by_cases hc : (timerAdvance s).1 = true
    · have h2 := (timerAdvance_fst s).mp hc
      cases hk : s.tmr_ie <;>
        simp [Validates, hs, hk, timerAdvance_compare s h2.1 h2.2, h2.1, h2.2]
    · have h2 := fun x => hc ((timerAdvance_fst s).mpr x)
      simp only [Bool.not_eq_true] at hc
      simp [Validates, hs, hc]
      tauto

/-- Every event completes. -/
theorem exec_answers (i : Instr) (s : State) : ∃ t, exec i s = .next t := by
  cases i with
  | read =>
    by_cases hc : s.count = 0
    · exact ⟨_, exec_read_empty s hc⟩
    · exact ⟨_, exec_read_nonempty s hc⟩
  | _ => exact ⟨_, rfl⟩

/-! ### Runs -/

@[simp] theorem runEvents_nil (s : State) : runEvents [] s = .next s := rfl

theorem runEvents_cons (i : Instr) (es : List Instr) (s t : State) (h : exec i s = .next t) :
    runEvents (i :: es) s = runEvents es t := by
  show andThen (exec i s) (runEvents es) = _
  rw [h]; rfl

theorem runEvents_append (es fs : List Instr) (s : State) :
    runEvents (es ++ fs) s = andThen (runEvents es s) (runEvents fs) := by
  induction es generalizing s with
  | nil => rfl
  | cons i es ih =>
    obtain ⟨t, ht⟩ := exec_answers i s
    rw [List.cons_append, runEvents_cons _ _ _ _ ht, runEvents_cons _ _ _ _ ht, ih]

theorem ticks_append (ls ms : List Level) : ticks (ls ++ ms) = ticks ls ++ ticks ms := by
  simp [ticks]

@[simp] theorem ticks_cons (l : Level) (ls : List Level) :
    ticks (l :: ls) = .tick l :: ticks ls := rfl

@[simp] theorem ticks_nil : ticks [] = [] := rfl

end Sys2Proof.Machine
end

