-- ==== Sys2Proof/Laws/Queue.lean ====
section
/-! SUPPORT. The queue as a list: what a push and a read do to it, and what leaves it alone. -/

namespace Sys2Proof.Machine

/-- The queue depends on `head`, `count`, the memory and the capacity only. -/
theorem queue_congr (s t : State) (h1 : t.head = s.head) (h2 : t.count = s.count)
    (h3 : t.buf = s.buf) (h4 : t.cfg = s.cfg) : t.queue = s.queue := by
  simp only [State.queue, memRead, slotIndex, h1, h2, h3, h4]

@[simp] theorem queue_length (s : State) : s.queue.length = s.count := by simp [State.queue]

@[simp] theorem queue_trackLine (rx : Level) (s : State) : (trackLine rx s).queue = s.queue :=
  queue_congr _ _ rfl rfl rfl rfl

@[simp] theorem queue_respond (d : Nat) (v : Bool) (s : State) : (respond d v s).queue = s.queue :=
  queue_congr _ _ rfl rfl rfl rfl

@[simp] theorem queue_rearm (s : State) : (rearm s).queue = s.queue :=
  queue_congr _ _ rfl rfl rfl rfl

@[simp] theorem queue_beginReception (s : State) : (beginReception s).queue = [] := by
  simp [State.queue]

/-- A push into a queue that is not full appends (R60). -/
theorem queue_push (b : Byte) (s : State) (h : s.count < s.cfg.cap) :
    (push b s).2.queue = s.queue ++ [b] := by
  rw [push_notFull b s h]
  have hn : memRead (memWrite (pushIndex s) b s) (pushIndex s) = b := by
    simp [memRead, Memory.read_write_same]
  have ho : ∀ j, j < s.count →
      memRead (memWrite (pushIndex s) b s) (slotIndex s j) = memRead s (slotIndex s j) := by
    intro j hj
    have : slotIndex s j ≠ pushIndex s := slotIndex_ne s j s.count hj (by omega)
    simp [memRead, Memory.read_write_other _ _ _ _ this]
  show ((List.range (s.count + 1)).map fun j =>
    memRead (memWrite (pushIndex s) b s) (slotIndex s j)) = _
  rw [List.range_succ, List.map_append, List.map_singleton]
  congr 1
  · exact List.map_congr_left fun j hj => ho j (List.mem_range.mp hj)
  · exact congrArg (fun x => [x]) hn

/-- A push into a full queue leaves it alone (R60). -/
theorem queue_push_full (b : Byte) (s : State) (h : s.cfg.cap ≤ s.count) :
    (push b s).2.queue = s.queue := by
  rw [push_full b s h]
  exact queue_congr _ _ rfl rfl rfl rfl

theorem slotIndex_dropOldest (s : State) (j : Nat) :
    slotIndex (dropOldest s) j = slotIndex s (j + 1) := by
  simp only [slotIndex, dropOldest_head, dropOldest_cfg, Nat.mod_add_mod]
  congr 1
  omega

/-- The byte at `head` is the first of the queue, and dropping it leaves the rest (R62). -/
theorem queue_dropOldest (s : State) (hh : s.head < s.cfg.cap) (hc : s.count ≠ 0) :
    s.queue = memRead s s.head :: (dropOldest s).queue := by
  obtain ⟨n, hn⟩ : ∃ n, s.count = n + 1 := ⟨s.count - 1, by omega⟩
  have h0 : slotIndex s 0 = s.head := by simp [slotIndex, Nat.mod_eq_of_lt hh]
  simp only [State.queue, slotIndex_dropOldest, dropOldest_count, hn, Nat.add_sub_cancel,
    List.range_succ_eq_map, List.map_cons, List.map_map, h0]
  rfl

/-- A queue that is not empty shows in `count`. -/
theorem count_of_queue_cons (s : State) (b : Byte) (bs : List Byte) (h : s.queue = b :: bs) :
    s.count = bs.length + 1 := by
  rw [← queue_length, h, List.length_cons]

end Sys2Proof.Machine
end

