-- ==== Sys2Proof/Laws/Frame.lean ====
section
/-! SUPPORT. The block inside a frame: its whole state on every tick between the start edge and the
validation, in closed form, and that the ticks give it. `lev n` is the level on the `n`-th tick after
the start edge. -/

namespace Sys2Proof.Machine

/-- Data samples taken by tick `n`, before the completion event. -/
def samplesBy (c : Config) (n : Nat) : Nat :=
  if n < c.firstTicks then 0 else (n - c.firstTicks) / c.bitTicks + 1

/-- Ticks left to the next compare event after tick `n`. -/
def ticksLeft (c : Config) (n : Nat) : Nat :=
  if n < c.firstTicks then c.firstTicks - n
  else c.bitTicks - (n - c.firstTicks) % c.bitTicks

/-- The shift register after the first `k` data samples. -/
def rawAfter (c : Config) (lev : Nat → Level) (k : Nat) : Byte :=
  rawOfSamples ((List.range k).map fun i => lev (c.firstTicks + i * c.bitTicks))

/-- The whole state after tick `n` of a frame that began in `s`, for `n < F + 8P`. -/
def frameState (s : State) (lev : Nat → Level) (n : Nat) : State :=
  if n < s.cfg.firstTicks + 7 * s.cfg.bitTicks then
    { s with
      edge_en := false, tmr_run := true, tcnt := ticksLeft s.cfg n,
      sr := rawAfter s.cfg lev (samplesBy s.cfg n),
      bitcnt := BitVec.ofNat 4 (samplesBy s.cfg n),
      sr_clk_en := true, tmr_ie := false, state := .sampling, rx_prev := lev n }
  else
    { s with
      edge_en := false, tmr_run := true,
      tcnt := s.cfg.firstTicks + 8 * s.cfg.bitTicks - n,
      sr := rawAfter s.cfg lev 8, bitcnt := 8#4,
      sr_clk_en := false, tmr_ie := true, state := .validatingFrame, rx_prev := lev n }

theorem rawAfter_succ (c : Config) (lev : Nat → Level) (k : Nat) :
    rawAfter c lev (k + 1) =
      shiftSample (rawAfter c lev k) (lev (c.firstTicks + k * c.bitTicks)) := by
  simp [rawAfter, rawOfSamples, List.range_succ]

/-- One tick later: no compare event, or exactly the next sample. -/
theorem frame_arith (c : Config) (n : Nat) (hP : 1 ≤ c.bitTicks) (hF : 1 ≤ c.firstTicks) :
    (ticksLeft c n ≠ 1 ∧ ticksLeft c (n + 1) = ticksLeft c n - 1 ∧
      samplesBy c (n + 1) = samplesBy c n) ∨
    (ticksLeft c n = 1 ∧ ticksLeft c (n + 1) = c.bitTicks ∧
      samplesBy c (n + 1) = samplesBy c n + 1 ∧
      n + 1 = c.firstTicks + samplesBy c n * c.bitTicks) := by
  obtain ⟨_, P, F, _⟩ := c
  simp only [ticksLeft, samplesBy] at *
  rcases Nat.lt_or_ge n F with hn | hn
  · rcases Nat.lt_or_ge (n + 1) F with h1 | h1
    · left
      simp only [if_pos hn, if_pos h1]
      exact ⟨by omega, by omega, trivial⟩
    · right
      obtain rfl : F = n + 1 := by omega
      simp
  · obtain ⟨m, rfl⟩ := Nat.exists_eq_add_of_le hn
    have e1 : F + m - F = m := by omega
    have e2 : F + m + 1 - F = m + 1 := by omega
    have g1 : ¬ F + m < F := by omega
    have g2 : ¬ F + m + 1 < F := by omega
    simp only [e1, e2, g1, g2, if_false]
    have hm := Nat.div_add_mod m P
    have hlt := Nat.mod_lt m hP
    by_cases hr : m % P + 1 = P
    · right
      have hd : m + 1 = P * (m / P + 1) := by rw [Nat.mul_add]; omega
      have h3 : (m + 1) / P = m / P + 1 := by
        conv_lhs => rw [hd]
        exact Nat.mul_div_cancel_left _ hP
      have h4 : (m + 1) % P = 0 := by
        conv_lhs => rw [hd]
        exact Nat.mul_mod_right _ _
      refine ⟨by omega, by omega, by omega, ?_⟩
      rw [Nat.mul_comm]; omega
    · left
      have h3 : (m + 1) / P = m / P := by
        rw [Nat.div_eq_iff hP]
        constructor
        · rw [Nat.mul_comm]; omega
        · rw [Nat.mul_comm]; omega
      have h4 : (m + 1) % P = m % P + 1 := by
        have := Nat.div_add_mod (m + 1) P
        rw [h3] at this
        omega
      omega

/-- The start edge gives the state of tick 0. -/
theorem frame_start (s : State) (lev : Nat → Level) (h0 : lev 0 = false) (hst : s.state = .idle)
    (he : s.edge_en = true) (hp : s.rx_prev = true) (hr : s.tmr_run = false)
    (hti : s.tmr_ie = false) (hF : 1 ≤ s.cfg.firstTicks) :
    exec (.tick (lev 0)) s = .next (frameState s lev 0) := by
  have h7 : 0 < s.cfg.firstTicks + 7 * s.cfg.bitTicks := by omega
  have e1 : samplesBy s.cfg 0 = 0 := by simp [samplesBy]; omega
  have e2 : ticksLeft s.cfg 0 = s.cfg.firstTicks := by simp [ticksLeft]; omega
  rw [h0]
  simp [exec, execTick, timerAdvance_stopped s hr, handleEvent, hst, detectEdge, edgeEvent, he, hp,
    startFrame, trackLine, frameState, h7, e1, e2, h0, hti, rawAfter, rawOfSamples]

/-- Each tick before the validation gives the state of the next tick. -/
theorem frame_next (s : State) (lev : Nat → Level) (n : Nat) (hP : 1 ≤ s.cfg.bitTicks)
    (hF : 1 ≤ s.cfg.firstTicks) (hn : n + 1 < s.cfg.firstTicks + 8 * s.cfg.bitTicks) :
    exec (.tick (lev (n + 1))) (frameState s lev n) = .next (frameState s lev (n + 1)) := by
  by_cases h7 : n < s.cfg.firstTicks + 7 * s.cfg.bitTicks
  · rcases frame_arith s.cfg n hP hF with ⟨a1, a2, a3⟩ | ⟨a1, a2, a3, a4⟩
    · have h7' : n + 1 < s.cfg.firstTicks + 7 * s.cfg.bitTicks := by
        by_contra hc
        have he : n + 1 = s.cfg.firstTicks + 7 * s.cfg.bitTicks := by omega
        have hk : samplesBy s.cfg (n + 1) = 8 := by
          simp [samplesBy, he, Nat.mul_div_cancel 7 hP]
        have hk' : samplesBy s.cfg n ≤ 7 := by
          simp only [samplesBy]
          split
          · omega
          · have : (n - s.cfg.firstTicks) / s.cfg.bitTicks < 7 :=
              (Nat.div_lt_iff_lt_mul hP).mpr (by omega)
            omega
        omega
      simp [exec, execTick, frameState, h7, h7', timerAdvance, a1, a2, a3, handleEvent, trackLine]
    · have hk : samplesBy s.cfg n ≤ 7 := by
        by_contra hc
        have := Nat.mul_le_mul_right s.cfg.bitTicks (show 8 ≤ samplesBy s.cfg n by omega)
        omega
      have hlev : lev (n + 1) = lev (s.cfg.firstTicks + samplesBy s.cfg n * s.cfg.bitTicks) := by
        rw [← a4]
      by_cases h7' : n + 1 < s.cfg.firstTicks + 7 * s.cfg.bitTicks
      · have hk6 : samplesBy s.cfg n < 7 := by
          by_contra hc
          have : samplesBy s.cfg n = 7 := by omega
          rw [this] at a4; omega
        have hb : ¬ BitVec.ofNat 4 (samplesBy s.cfg n + 1) = 8#4 := by
          revert hk6; generalize samplesBy s.cfg n = k; intro hk6
          interval_cases k <;> decide
        have hb2 : BitVec.ofNat 4 (samplesBy s.cfg n) + 1#4 =
            BitVec.ofNat 4 (samplesBy s.cfg n + 1) := by
          rw [BitVec.ofNat_add]
        simp [exec, execTick, frameState, h7, h7', timerAdvance, a1, a2, a3, handleEvent, trackLine,
          shiftIn, hb, rawAfter_succ, ← hlev, hb2]
      · have hk7 : samplesBy s.cfg n = 7 := by
          by_contra hc
          have := Nat.mul_le_mul_right s.cfg.bitTicks (show samplesBy s.cfg n ≤ 6 by omega)
          omega
        rw [hk7] at a4 hlev
        have ht : s.cfg.firstTicks + 8 * s.cfg.bitTicks - (n + 1) = s.cfg.bitTicks := by omega
        have hr8 : rawAfter s.cfg lev 8 = shiftSample (rawAfter s.cfg lev 7) (lev (n + 1)) := by
          rw [rawAfter_succ, hlev]
        simp [exec, execTick, frameState, h7, h7', timerAdvance, a1, handleEvent, trackLine,
          shiftIn, completeSampling, hk7, ht, hr8]
  · have h7' : ¬ n + 1 < s.cfg.firstTicks + 7 * s.cfg.bitTicks := by omega
    have h1 : ¬ s.cfg.firstTicks + 8 * s.cfg.bitTicks - n = 1 := by omega
    simp [exec, execTick, frameState, h7, h7', timerAdvance, h1, handleEvent, trackLine]
    omega

/-- The ticks of a frame, from its start edge to any tick before the validation. -/
theorem run_frame (s : State) (lev : Nat → Level) (n : Nat) (h0 : lev 0 = false)
    (hst : s.state = .idle) (he : s.edge_en = true) (hp : s.rx_prev = true)
    (hr : s.tmr_run = false) (hti : s.tmr_ie = false) (hP : 1 ≤ s.cfg.bitTicks)
    (hF : 1 ≤ s.cfg.firstTicks) (hn : n < s.cfg.firstTicks + 8 * s.cfg.bitTicks) :
    runEvents (ticks ((List.range (n + 1)).map lev)) s = .next (frameState s lev n) := by
  induction n with
  | zero =>
    show runEvents (.tick (lev 0) :: []) s = _
    rw [runEvents_cons _ _ _ _ (frame_start s lev h0 hst he hp hr hti hF)]
    rfl
  | succ n ih =>
    rw [List.range_succ, List.map_append, ticks_append, runEvents_append, ih (by omega)]
    show runEvents (.tick (lev (n + 1)) :: []) (frameState s lev n) = _
    rw [runEvents_cons _ _ _ _ (frame_next s lev n hP hF hn)]
    rfl

/-- The last tick before the validation leaves a state whose next tick validates. -/
theorem frameState_validates (s : State) (lev : Nat → Level) (hP : 1 ≤ s.cfg.bitTicks) :
    Validates (frameState s lev (s.cfg.firstTicks + 8 * s.cfg.bitTicks - 1)) := by
  have h : ¬ s.cfg.firstTicks + 8 * s.cfg.bitTicks - 1 <
      s.cfg.firstTicks + 7 * s.cfg.bitTicks := by omega
  rw [frameState, if_neg h]
  refine ⟨rfl, rfl, rfl, ?_⟩
  show s.cfg.firstTicks + 8 * s.cfg.bitTicks - (s.cfg.firstTicks + 8 * s.cfg.bitTicks - 1) = 1
  omega

/-- Eight samples assemble the byte whose bits they are. -/
theorem rev8_rawAfter (c : Config) (lev : Nat → Level) (b : Byte)
    (h : ∀ i, i < 8 → lev (c.firstTicks + i * c.bitTicks) = b.getLsbD i) :
    rawAfter c lev 8 = rev8 b := by
  have e : ((List.range 8).map fun i => lev (c.firstTicks + i * c.bitTicks)) =
      (List.range 8).map fun i => b.getLsbD i :=
    List.map_congr_left fun i hi => h i (List.mem_range.mp hi)
  have k : ∀ b : Byte, rawOfSamples ((List.range 8).map fun i => b.getLsbD i) = rev8 b := by decide
  rw [rawAfter, e, k]

end Sys2Proof.Machine
end

