-- ==== Sys2Proof/Laws/Invariant.lean ====
section
/-! SUPPORT. The invariant's small facts: what it gives in `Idle`, and that the shared writes keep it. -/

namespace Sys2Proof.Machine

/-- Legal parameters, as three inequalities. -/
theorem Config.bounds {c : Config} (h : c.wellFormed = true) :
    2 ≤ c.bitTicks ∧ 1 ≤ c.firstTicks ∧ max c.bitTicks c.firstTicks < 2 ^ c.tw := by
  simpa [Config.wellFormed, and_assoc] using h

/-- A byte fits the response bus. -/
theorem Config.byte_fits (c : Config) (d : Nat) (h : d < 256) : d < 2 ^ c.rw :=
  lt_of_lt_of_le h (show 2 ^ 8 ≤ 2 ^ c.rw from
    Nat.pow_le_pow_right (by omega) (le_max_left 8 (c.k + 1)))

/-- The queue's count fits the response bus. -/
theorem count_fits (s : State) (h : s.count ≤ s.cfg.cap) : s.count < 2 ^ s.cfg.rw := by
  have h1 : s.cfg.cap < 2 ^ (s.cfg.k + 1) := Nat.pow_lt_pow_right (by omega) (by omega)
  have h2 : 2 ^ (s.cfg.k + 1) ≤ 2 ^ s.cfg.rw :=
    Nat.pow_le_pow_right (by omega) (by simp [Config.rw])
  omega

/-- The queue's invariants from checks over its listed slots and its positions. -/
theorem QueueInvariants.of_checks (s : State) (h1 : s.head < s.cfg.cap) (h2 : Memory.wf s.buf)
    (h3 : ∀ c ∈ s.buf, c.1 < s.cfg.cap)
    (h4 : ∀ j, j < s.count → (Memory.read s.buf (slotIndex s j)).isSome = true) :
    QueueInvariants s where
  head_lt := h1
  buf_wf := h2
  buf_range i b h := h3 (i, b) (Memory.read_mem _ _ _ h)
  live j hj := Option.isSome_iff_exists.mp (h4 j hj)

/-- The spec's invariants depend on the receiver's fields and on `count` only. -/
theorem SpecInvariants.congr {s t : State} (h : SpecInvariants s) (h1 : t.state = s.state)
    (h2 : t.sr = s.sr) (h3 : t.bitcnt = s.bitcnt) (h4 : t.edge_en = s.edge_en)
    (h5 : t.sr_clk_en = s.sr_clk_en) (h6 : t.tmr_ie = s.tmr_ie) (h7 : t.tmr_run = s.tmr_run)
    (h8 : t.tcnt = s.tcnt) (h9 : t.count ≤ t.cfg.cap) (h10 : t.cfg = s.cfg) :
    SpecInvariants t := by
  obtain ⟨_, a2, a3, a4, a5, a6, a7, a8, a9⟩ := h
  constructor
  · exact h9
  all_goals simp only [h1, h2, h3, h4, h5, h6, h7, h8, h10]
  all_goals assumption

/-- In `Idle` the timer is stopped at 0 and both of its enables are off. -/
theorem Inv.idle_facts {s : State} (hi : Inv s) (h : s.state = .idle) :
    s.tmr_run = false ∧ s.tmr_ie = false ∧ s.sr_clk_en = false ∧ s.tcnt = 0 := by
  have h3 := hi.spec.item3
  have h4 := hi.spec.item4
  have h5 := hi.spec.item5
  simp [h] at h3 h4 h5
  exact ⟨h5, h4, h3, hi.spec.item6.1 h5⟩

theorem Inv.trackLine {s : State} (rx : Level) (h : Inv s) : Inv (trackLine rx s) := by
  obtain ⟨a, b, ⟨c1, c2, c3, c4⟩, d, e, f⟩ := h
  exact ⟨a, b.congr rfl rfl rfl rfl rfl rfl rfl rfl b.item1 rfl, ⟨c1, c2, c3, c4⟩, d, e, f⟩

theorem Inv.input {s : State} (l : List Input) (h : Inv s) : Inv { s with input := l } := by
  obtain ⟨a, b, ⟨c1, c2, c3, c4⟩, d, e, f⟩ := h
  exact ⟨a, b.congr rfl rfl rfl rfl rfl rfl rfl rfl b.item1 rfl, ⟨c1, c2, c3, c4⟩, d, e, f⟩

theorem Inv.respond {s : State} (d : Nat) (v : Bool) (h : Inv s) (hd : d < 2 ^ s.cfg.rw) :
    Inv (respond d v s) := by
  obtain ⟨a, b, ⟨c1, c2, c3, c4⟩, e, f, _⟩ := h
  refine ⟨a, b.congr rfl rfl rfl rfl rfl rfl rfl rfl b.item1 rfl, ⟨c1, c2, c3, c4⟩, e, f, ?_⟩
  intro r hr
  simp at hr
  subst hr
  exact hd

theorem Inv.beginReception {s : State} (h : Inv s) : Inv (beginReception s) := by
  obtain ⟨a, _, ⟨_, c2, c3, _⟩, _, _, g⟩ := h
  refine ⟨a, ?_, ⟨?_, c2, c3, ?_⟩, ?_, ?_, g⟩
  · constructor <;> simp
  · simpa using Config.cap_pos _
  all_goals simp

theorem Inv.hardReset {s : State} (h : Inv s) : Inv (hardReset s) := by
  obtain ⟨a, _, ⟨_, c2, c3, _⟩, _, _, _⟩ := h
  refine ⟨a, ?_, ⟨?_, c2, c3, ?_⟩, ?_, ?_, ?_⟩
  · constructor <;> simp
  · simpa using Config.cap_pos _
  all_goals simp

/-- A tick that is a validation event runs `validate`, the timer having reloaded first. -/
theorem exec_validates (s : State) (rx : Level) (h : Validates s) :
    exec (.tick rx) s = .next (trackLine rx (validate rx { s with tcnt := s.cfg.bitTicks })) := by
  obtain ⟨t, ht⟩ := exec_answers (.tick rx) s
  rcases tick_cases rx s t ht with ⟨h1, _⟩ | ⟨h1, _⟩ | ⟨_, rfl⟩ | ⟨_, _, h3, _⟩
  · exact absurd h1 (by simp [h.1])
  · exact absurd h1 (by simp [h.1])
  · exact ht
  · exact absurd h h3

end Sys2Proof.Machine
end

