-- ==== Sys2Proof/Laws/PerInstr.lean ====
section
/-! SUPPORT. The facts about every instruction as syntax, one lemma for each constructor. -/

namespace Sys2Proof.Laws

/-- A well-formed instruction's event word is the `ev[3:0]` of its row (30_encoding.md R49), decodes back
to it, and agrees with its command code, if it has one. -/
def RoundTrip.Statement (i : Instr) : Prop :=
  i.wellFormed = true →
    decode (encode i) = .ok i ∧ decodeTableWord 4 (encode i).toNat = some i ∧
    (∀ c, encodeCmd i = some c → decodeCmd c = .ok i ∧ encode i = 1#1 ++ c)

theorem RoundTrip.tick (rx : Level) : RoundTrip.Statement (.tick rx) := by
  intro _
  refine ⟨by revert rx; decide, by revert rx; decide, fun c h => ?_⟩
  simp [encodeCmd] at h

theorem RoundTrip.nop : RoundTrip.Statement .nop := by
  refine fun _ => ⟨by decide, by decide, fun c h => ?_⟩
  obtain rfl : 0b000#3 = c := Option.some.inj h
  decide

theorem RoundTrip.begin : RoundTrip.Statement .begin := by
  refine fun _ => ⟨by decide, by decide, fun c h => ?_⟩
  obtain rfl : 0b001#3 = c := Option.some.inj h
  decide

theorem RoundTrip.avail : RoundTrip.Statement .avail := by
  refine fun _ => ⟨by decide, by decide, fun c h => ?_⟩
  obtain rfl : 0b010#3 = c := Option.some.inj h
  decide

theorem RoundTrip.read : RoundTrip.Statement .read := by
  refine fun _ => ⟨by decide, by decide, fun c h => ?_⟩
  obtain rfl : 0b011#3 = c := Option.some.inj h
  decide

theorem RoundTrip.ovf : RoundTrip.Statement .ovf := by
  refine fun _ => ⟨by decide, by decide, fun c h => ?_⟩
  obtain rfl : 0b100#3 = c := Option.some.inj h
  decide

theorem RoundTrip.ferrc : RoundTrip.Statement .ferrc := by
  refine fun _ => ⟨by decide, by decide, fun c h => ?_⟩
  obtain rfl : 0b101#3 = c := Option.some.inj h
  decide

theorem RoundTrip.brkc : RoundTrip.Statement .brkc := by
  refine fun _ => ⟨by decide, by decide, fun c h => ?_⟩
  obtain rfl : 0b110#3 = c := Option.some.inj h
  decide

end Sys2Proof.Laws
end

