-- ==== Sys2Proof/Laws/Waveform.lean ====
section
/-! SUPPORT. The waveform of a list of cells: its length, and the level on each tick. -/

namespace Sys2Proof.Machine

@[simp] theorem waveform_nil (p : Nat) : waveform p [] = [] := rfl

@[simp] theorem waveform_cons (p : Nat) (c : Level) (cs : List Level) :
    waveform p (c :: cs) = List.replicate p c ++ waveform p cs := rfl

theorem waveform_length (p : Nat) (cs : List Level) :
    (waveform p cs).length = cs.length * p := by
  induction cs with
  | nil => simp
  | cons c cs ih => simp [ih, Nat.succ_mul, Nat.add_comm]

/-- Tick `t` of cell `j` carries the level of cell `j`. -/
theorem waveform_getElem (p : Nat) (cs : List Level) (j t : Nat) (ht : t < p) :
    (waveform p cs)[j * p + t]? = cs[j]? := by
  induction cs generalizing j with
  | nil => simp
  | cons c cs ih =>
    cases j with
    | zero => simp [List.getElem?_append, ht]
    | succ j =>
      have h : (j + 1) * p + t = p + (j * p + t) := by rw [Nat.succ_mul]; omega
      rw [waveform_cons, h, List.getElem?_append_right (by simp), List.length_replicate,
        Nat.add_sub_cancel_left, List.getElem?_cons_succ, ih]

end Sys2Proof.Machine
end

