-- ==== Sys2Proof/Tests/Slice0.lean ====
section
/-! SUPPORT. Tests: the form checks, the encodings written out from the spec, one step of each
instruction on values of the spec's own vectors, and a witness for the hypotheses of each statement. -/

namespace Sys2Proof.Tests

open Sys2Proof Sys2Proof.Machine

/-- The small parameter set of 95_test_vectors.md: `CAP = 4, P = 4, F = 6`. -/
def params : Config := { k := 2, bitTicks := 4, firstTicks := 6, tw := 3 }

def small : State := State.resetWith params

/-- Is the outcome the next state `t`? -/
def nextIs (o : Host.Outcome State Fault Refusal) (t : State) : Bool :=
  match o with
  | .next s => decide (s = t)
  | .fault _ => false
  | .refused _ => false

/-! ## Form checks (00_scope.md R5) -/

theorem test_params_wellFormed : params.wellFormed = true := by decide
theorem test_sourceExample_wellFormed : Config.sourceExample.wellFormed = true := by decide
theorem test_smoke_bitTicks_too_small :
    Config.wellFormed { k := 2, bitTicks := 1, firstTicks := 6, tw := 3 } = false := by decide
theorem test_smoke_firstTicks_zero :
    Config.wellFormed { k := 2, bitTicks := 4, firstTicks := 0, tw := 3 } = false := by decide
theorem test_smoke_timer_too_narrow_for_first :
    Config.wellFormed { k := 2, bitTicks := 4, firstTicks := 8, tw := 3 } = false := by decide
theorem test_smoke_timer_too_narrow_for_bit :
    Config.wellFormed { k := 2, bitTicks := 8, firstTicks := 6, tw := 3 } = false := by decide

/-! ## Decoding: the words of 30_encoding.md R48 and R49, bit by bit -/

theorem test_decode_tick_low : decode 0b0000#4 = .ok (.tick false) := by decide
theorem test_decode_tick_high : decode 0b0001#4 = .ok (.tick true) := by decide
theorem test_decode_nop : decode 0b1000#4 = .ok .nop := by decide
theorem test_decode_begin : decode 0b1001#4 = .ok .begin := by decide
theorem test_decode_avail : decode 0b1010#4 = .ok .avail := by decide
theorem test_decode_read : decode 0b1011#4 = .ok .read := by decide
theorem test_decode_ovf : decode 0b1100#4 = .ok .ovf := by decide
theorem test_decode_ferrc : decode 0b1101#4 = .ok .ferrc := by decide
theorem test_decode_brkc : decode 0b1110#4 = .ok .brkc := by decide
theorem test_decode_reserved :
    decode 0b0010#4 = .error (.reservedEvent 0b0010#4) ∧
    decode 0b0111#4 = .error (.reservedEvent 0b0111#4) ∧
    decode 0b1111#4 = .error (.reservedEvent 0b1111#4) := by decide
theorem test_decodeCmd_codes :
    decodeCmd 0b011#3 = .ok .read ∧ decodeCmd 0b101#3 = .ok .ferrc ∧
    decodeCmd 0b111#3 = .error (.reservedCommand 0b111#3) := by decide
theorem test_decodeTableWord :
    decodeTableWord 8 0b1011 = some .read ∧ decodeTableWord 4 0b0001 = some (.tick true) ∧
    decodeTableWord 8 0b00010000 = none := by decide

/-- BEGIN's word offered right after reset: exactly BEGIN runs (vector B1 of 95_test_vectors.md). -/
theorem test_withFetchWord_begin :
    nextIs (step (State.reset.withFetchWord 4 0x9))
      { State.reset with edge_en := true, resp := some ⟨0, false⟩ } = true := by decide

/-! ## Data (95_test_vectors.md sections 2, 3.4, 3.6) -/

theorem test_rev8 :
    rev8 0x82#8 = 0x41#8 ∧ rev8 0x0D#8 = 0xB0#8 ∧ rev8 0x28#8 = 0x14#8 ∧ rev8 0xCB#8 = 0xD3#8 := by
  decide
theorem test_rev8_steps : swapBits 0x0D#8 = 0x0E#8 ∧ swapPairs 0x0E#8 = 0x0B#8 := by decide
theorem test_samples_of_0D :
    rawOfSamples [true, false, true, true, false, false, false, false] = 0xB0#8 := by decide
theorem test_frame_of_01 :
    (Line.frame 0x01#8).words 2 =
      [0, 0, 1, 1, 0, 0, 0, 0, 0, 0, 0, 0, 0, 0, 0, 0, 0, 0, 1, 1] := by decide
theorem test_badFrame_of_80 :
    (Line.badFrame 0x80#8).events 1 =
      ticks [false, false, false, false, false, false, false, false, true, false] := by decide
theorem test_calculator : (configFor 5 8000000 9600).bitTicks = 833 := by decide

/-! ## One step of each instruction; the vector is named -/

/-- B5. -/
theorem test_nop : nextIs (exec .nop small) { small with resp := some ⟨0, false⟩ } = true := by
  decide

/-- B2. -/
theorem test_begin :
    nextIs (exec .begin
        { small with
          state := .sampling, sr := 0x05#8, bitcnt := 3#4, sr_clk_en := true, tmr_run := true,
          tcnt := 2, count := 2, head := 1, overflowed := true, ferr_cnt := 7#8, brk_cnt := 1#8,
          buf := [(1, 0x41#8), (2, 0x42#8)] })
      { small with
        edge_en := true, buf := [(1, 0x41#8), (2, 0x42#8)], resp := some ⟨0, false⟩ } = true := by
  decide

/-- Q12: `CAP = 256`, full. -/
theorem test_avail :
    nextIs (exec .avail { small with cfg := { params with k := 8 }, count := 256 })
      { small with cfg := { params with k := 8 }, count := 256, resp := some ⟨256, true⟩ } = true := by
  decide

/-- Q14. -/
theorem test_read_wraps :
    nextIs (exec .read { small with head := 3, count := 2, buf := [(0, 0x42#8), (3, 0x41#8)] })
      { small with
        head := 0, count := 1, buf := [(0, 0x42#8), (3, 0x41#8)],
        resp := some ⟨0x41, true⟩ } = true := by
  decide

/-- Q13. -/
theorem test_read_empty :
    nextIs (exec .read { small with head := 2 })
      { small with head := 2, resp := some ⟨0, false⟩ } = true := by
  decide

/-- Q19. -/
theorem test_ovf :
    nextIs (exec .ovf { small with overflowed := true, count := 4, head := 2 })
      { small with count := 4, head := 2, resp := some ⟨1, true⟩ } = true := by
  decide

/-- 95_test_vectors.md section 3.5, its last paragraph. -/
theorem test_ferrc :
    nextIs (exec .ferrc { small with ferr_cnt := 255#8, brk_cnt := 1#8 })
      { small with ferr_cnt := 255#8, brk_cnt := 1#8, resp := some ⟨255, true⟩ } = true := by
  decide

/-- 95_test_vectors.md section 3.5, its last paragraph. -/
theorem test_brkc :
    nextIs (exec .brkc { small with ferr_cnt := 255#8, brk_cnt := 1#8 })
      { small with ferr_cnt := 255#8, brk_cnt := 1#8, resp := some ⟨1, true⟩ } = true := by
  decide

/-- S1. -/
theorem test_tick_start :
    nextIs (exec (.tick false)
        { small with edge_en := true, rx_prev := true, sr := 0x82#8, bitcnt := 8#4 })
      { small with
        tmr_run := true, tcnt := 6, sr_clk_en := true, state := .sampling } = true := by
  decide

/-- V1, with the indices of Q3. -/
theorem test_tick_validate :
    nextIs (exec (.tick true)
        { small with
          state := .validatingFrame, tmr_ie := true, tmr_run := true, tcnt := 1, bitcnt := 8#4,
          sr := 0x82#8, head := 1, count := 3 })
      { small with
        edge_en := true, bitcnt := 8#4, sr := 0x82#8, rx_prev := true, head := 1, count := 4,
        buf := [(0, 0x41#8)] } = true := by
  decide

/-! ## The states the witnesses use, and that they meet the invariant -/

/-- Armed, idle line high, empty queue. -/
def armed : State := { small with edge_en := true, rx_prev := true }

/-- As `armed`, with a full queue whose oldest byte stands in slot 3. -/
def armedFull : State :=
  { armed with
    head := 3, count := 4, buf := [(0, 0x01#8), (1, 0x02#8), (2, 0x03#8), (3, 0x41#8)] }

/-- In a frame, three samples taken, the next compare event at hand. -/
def inFrame : State :=
  { small with
    state := .sampling, sr := 0x05#8, bitcnt := 3#4, sr_clk_en := true, tmr_run := true, tcnt := 1 }

/-- As `inFrame`, with seven samples taken. -/
def lastSample : State := { inFrame with sr := 0x41#8, bitcnt := 7#4 }

/-- Waiting for the stop sample, which is on the next tick; empty queue. -/
def atStop : State :=
  { small with
    state := .validatingFrame, tmr_ie := true, tmr_run := true, tcnt := 1, bitcnt := 8#4,
    sr := 0x82#8 }

/-- As `atStop`, with the full queue of `armedFull`. -/
def atStopFull : State :=
  { atStop with
    head := 3, count := 4, buf := [(0, 0x01#8), (1, 0x02#8), (2, 0x03#8), (3, 0x41#8)] }

theorem inv_small : Inv small := by
  refine ⟨by decide, ?_, .of_checks _ (by decide) (by decide) (by decide) (by decide),
    by decide, by decide, fun r h => ?_⟩
  · constructor <;> decide
  · cases h

theorem inv_armed : Inv armed := by
  refine ⟨by decide, ?_, .of_checks _ (by decide) (by decide) (by decide) (by decide),
    by decide, by decide, fun r h => ?_⟩
  · constructor <;> decide
  · cases h

theorem inv_armedFull : Inv armedFull := by
  refine ⟨by decide, ?_, .of_checks _ (by decide) (by decide) (by decide) (by decide),
    by decide, by decide, fun r h => ?_⟩
  · constructor <;> decide
  · cases h

theorem inv_inFrame : Inv inFrame := by
  refine ⟨by decide, ?_, .of_checks _ (by decide) (by decide) (by decide) (by decide),
    by decide, by decide, fun r h => ?_⟩
  · constructor <;> decide
  · cases h

theorem inv_lastSample : Inv lastSample := by
  refine ⟨by decide, ?_, .of_checks _ (by decide) (by decide) (by decide) (by decide),
    by decide, by decide, fun r h => ?_⟩
  · constructor <;> decide
  · cases h

theorem inv_atStop : Inv atStop := by
  refine ⟨by decide, ?_, .of_checks _ (by decide) (by decide) (by decide) (by decide),
    by decide, by decide, fun r h => ?_⟩
  · constructor <;> decide
  · cases h

theorem inv_atStopFull : Inv atStopFull := by
  refine ⟨by decide, ?_, .of_checks _ (by decide) (by decide) (by decide) (by decide),
    by decide, by decide, fun r h => ?_⟩
  · constructor <;> decide
  · cases h

theorem armedIdle_armed : ArmedIdle armed ∧ armed.rx_prev = true := by
  refine ⟨⟨?_, ?_⟩, ?_⟩ <;> decide

theorem armedIdle_armedFull : ArmedIdle armedFull ∧ armedFull.rx_prev = true := by
  refine ⟨⟨?_, ?_⟩, ?_⟩ <;> decide

theorem validates_atStop : Validates atStop := by
  refine ⟨?_, ?_, ?_, ?_⟩ <;> decide

theorem validates_atStopFull : Validates atStopFull := by
  refine ⟨?_, ?_, ?_, ?_⟩ <;> decide

theorem test_reset_memory_wf : Memory.wf State.reset.buf := by decide

/-! ## Witnesses: encodings and the step -/

theorem witness_EventWordsDecode :
    (2 ≤ (0b0010#4).toNat ∧ (0b0010#4).toNat ≤ 7) ∧
    (2 ≤ (0b0111#4).toNat ∧ (0b0111#4).toNat ≤ 7) := by decide

theorem witness_CommandCodesDecode :
    decodeCmd 0b000#3 = .ok .nop ∧ decodeCmd 0b110#3 = .ok .brkc := by decide

theorem witness_EncodeDecodeRoundTrip :
    Instr.wellFormed (.tick true) = true ∧ decode 0b1110#4 = .ok .brkc ∧
    encodeCmd .brkc = some 0b110#3 := by decide

theorem witness_StepRunsDecodedEvent :
    ({ small with input := [.event 0b1110#4] } : State).input = .event 0b1110#4 :: [] ∧
    decode 0b1110#4 = .ok .brkc := by decide

/-- Both a command and `NOP` on the edge. -/
theorem witness_ClockEdgeRunsCommandThenTick :
    ({ small with input := [.edge false true 0b110#3] } : State).input =
      .edge false true 0b110#3 :: [] ∧ decodeCmd 0b110#3 = .ok .brkc ∧
    ({ small with input := [.edge false false 0b000#3] } : State).input =
      .edge false false 0b000#3 :: [] ∧ decodeCmd 0b000#3 = .ok .nop := by decide

theorem witness_ResetEdgeSetsEveryElement :
    ({ inFrame with input := [.edge true true 0b111#3] } : State).input =
      .edge true true 0b111#3 :: [] := by decide

/-- Each clause, at the words where the clauses meet. -/
theorem witness_StepRefusesOnlyReservedCodes :
    small.input = [] ∧
    nextIs (step { small with input := [.event 0b0001#4] }) { small with rx_prev := true } = true ∧
    step { small with input := [.event 0b0010#4] } = .refused (.reservedEvent 0b0010#4) ∧
    step { small with input := [.event 0b0111#4] } = .refused (.reservedEvent 0b0111#4) ∧
    nextIs (step { small with input := [.event 0b1000#4] })
      { small with resp := some ⟨0, false⟩ } = true ∧
    nextIs (step { small with input := [.event 0b1110#4] })
      { small with resp := some ⟨0, true⟩ } = true ∧
    step { small with input := [.event 0b1111#4] } = .refused (.reservedEvent 0b1111#4) ∧
    step { small with input := [.edge false true 0b111#3] } =
      .refused (.reservedCommand 0b111#3) ∧
    nextIs (step { small with input := [.edge true true 0b111#3] }) small = true ∧
    nextIs (step { small with input := [.edge false true 0b110#3] })
      { small with rx_prev := true, resp := some ⟨0, true⟩ } = true :=
  ⟨by decide, by decide, rfl, rfl, by decide, by decide, rfl, rfl, by decide, by decide⟩

theorem witness_StepKeepsParametersAndTakesOneInput :
    step { armed with input := [.event 0b1000#4, .event 0b0001#4] } =
      .next { armed with input := [.event 0b0001#4], resp := some ⟨0, false⟩ } := rfl

theorem witness_EventRunsAreStepRuns :
    runEvents [.begin, .tick true] { small with input := [.event 0b1000#4] } =
      .next { armed with input := [.event 0b1000#4], resp := some ⟨0, false⟩ } := rfl

/-! ## Witnesses: commands -/

theorem witness_AvailAnswersCount :
    small.count ≤ small.cfg.cap ∧ armedFull.count = armedFull.cfg.cap := by decide

theorem witness_ReadRemovesOldest :
    small.count = 0 ∧ armedFull.count ≠ 0 ∧
    Memory.read armedFull.buf armedFull.head = some 0x41#8 := by decide

theorem witness_ReadAnswersFirstOfQueue :
    Inv armedFull ∧ armedFull.queue = 0x41#8 :: [0x01#8, 0x02#8, 0x03#8] :=
  ⟨inv_armedFull, by decide⟩

theorem witness_OvfTakesFlag :
    exec .ovf { small with overflowed := true } = .next { small with resp := some ⟨1, true⟩ } := rfl

/-- For each of the two commands that write, with its guard. -/
theorem witness_CommandsWriteOnlyConsumerState :
    (∀ rx, Instr.read ≠ .tick rx) ∧ Instr.read ≠ .begin ∧
    (∃ t, exec .read armedFull = .next t ∧ t.count = 3) ∧
    (∀ rx, Instr.ovf ≠ .tick rx) ∧ Instr.ovf ≠ .begin ∧ Instr.ovf ≠ .read ∧
    exec .ovf small = .next { small with resp := some ⟨0, true⟩ } ∧
    (∃ t, exec .avail { small with overflowed := true } = .next t ∧ t.overflowed = true) :=
  ⟨by decide, by decide, ⟨_, rfl, rfl⟩, by decide, by decide, by decide, rfl, ⟨_, rfl, rfl⟩⟩

/-! ## Witnesses: the tick -/

theorem witness_FallingEdgeStartsFrame :
    armed.state = .idle ∧ armed.edge_en = true ∧ armed.tmr_run = false ∧ armed.rx_prev = true := by
  decide

theorem witness_RisingEdgeIgnored :
    let s := { armed with rx_prev := false }
    s.state = .idle ∧ s.edge_en = true ∧ s.tmr_run = false ∧ s.rx_prev = false := by decide

/-- Disarmed with an edge; armed with no edge. -/
theorem witness_NoEdgeEventNoEffect :
    (small.state = .idle ∧ small.tmr_run = false ∧ small.edge_en = false ∧ true ≠ small.rx_prev) ∧
    (armed.state = .idle ∧ armed.tmr_run = false ∧ armed.edge_en = true ∧ true = armed.rx_prev) := by
  decide

/-- No compare event; a compare event with 0, 6 and 7 samples taken. -/
theorem witness_SamplingTick :
    (inFrame.state = .sampling ∧ inFrame.sr_clk_en = true ∧ inFrame.tmr_run = true) ∧
    ({ inFrame with tcnt := 2 } : State).tcnt ≠ 1 ∧
    (inFrame.tcnt = 1 ∧ ({ inFrame with bitcnt := 0#4 } : State).bitcnt ≠ 7#4 ∧
      ({ inFrame with bitcnt := 6#4 } : State).bitcnt ≠ 7#4) ∧
    (lastSample.tcnt = 1 ∧ lastSample.bitcnt = 7#4 ∧ lastSample.state = .sampling) := by decide

theorem witness_ValidatingTickBeforeStopSample :
    let s := { atStop with tcnt := 2 }
    s.state = .validatingFrame ∧ s.tmr_run = true ∧ s.tcnt ≠ 1 := by decide

/-- Room for one more byte, a full queue; a break, a framing error. -/
theorem witness_ValidationOutcomes :
    Validates { atStop with count := 3 } ∧ ({ atStop with count := 3 } : State).count < params.cap ∧
    Validates atStopFull ∧ atStopFull.cfg.cap ≤ atStopFull.count ∧
    Validates { atStop with sr := 0x00#8 } ∧ Validates { atStop with sr := 0x01#8 } := by
  refine ⟨⟨?_, ?_, ?_, ?_⟩, ?_, validates_atStopFull, ?_, ⟨?_, ?_, ?_, ?_⟩, ⟨?_, ?_, ?_, ?_⟩⟩ <;>
    decide

/-- Each clause: a push, a drop, a framing error, a break, a start edge, a data sample. -/
theorem witness_TickCompletesWithFrame :
    (Validates atStop ∧ atStop.count < atStop.cfg.cap ∧ pushIndex atStop = 0) ∧
    (Validates atStopFull ∧ atStopFull.cfg.cap ≤ atStopFull.count) ∧
    (∃ t, exec (.tick false) atStop = .next t ∧ t.ferr_cnt ≠ atStop.ferr_cnt) ∧
    (∃ t, exec (.tick false) { atStop with sr := 0x00#8 } = .next t ∧ t.brk_cnt = 1#8) ∧
    (∃ t, exec (.tick false) { armed with sr := 0x82#8 } = .next t ∧ t.sr ≠ 0x82#8) ∧
    (∃ t, exec (.tick true) inFrame = .next t ∧ t.bitcnt ≠ inFrame.bitcnt) :=
  ⟨⟨validates_atStop, by decide, by decide⟩, ⟨validates_atStopFull, by decide⟩,
    ⟨_, rfl, by decide⟩, ⟨_, rfl, by decide⟩, ⟨_, rfl, by decide⟩, ⟨_, rfl, by decide⟩⟩

theorem witness_OnlyTheFourTransitions :
    (Inv armed ∧ ∃ t, exec (.tick false) armed = .next t ∧ t.state = .sampling) ∧
    (Inv lastSample ∧ ∃ t, exec (.tick true) lastSample = .next t ∧ t.state = .validatingFrame) ∧
    (Inv atStop ∧ ∃ t, exec (.tick true) atStop = .next t ∧ t.state = .idle) ∧
    (Inv inFrame ∧ ∃ t, exec .begin inFrame = .next t ∧ t.state = .idle) :=
  ⟨⟨inv_armed, _, rfl, rfl⟩, ⟨inv_lastSample, _, rfl, rfl⟩, ⟨inv_atStop, _, rfl, rfl⟩,
    ⟨inv_inFrame, _, rfl, rfl⟩⟩

/-! ## Witnesses: data and invariants -/

theorem witness_Rev8Laws :
    (rev8 0x80#8).getLsbD 0 = true ∧ (rev8 0x01#8).getLsbD 7 = true ∧ rev8 0x18#8 = 0x18#8 := by
  decide

theorem witness_NominalFrameLevels :
    (nominalFrame 2 0x80#8)[(7 + 1) * 2 + 1]? = some true ∧
    (nominalFrame 2 0x01#8)[(0 + 1) * 2 + 0]? = some true := by decide

/-- The boundary `P = 2`. -/
theorem witness_CalculatorGivesNearestPeriod :
    0 < 3 ∧ (configFor 0 5 3).bitTicks = 2 ∧ 2 ≤ (configFor 0 5 3).bitTicks := by decide

theorem witness_ResetMeetsInvariant : params.wellFormed = true := by decide

theorem witness_StepKeepsInvariant :
    Inv { atStop with input := [.event 0b0001#4] } ∧
    ∃ t, step { atStop with input := [.event 0b0001#4] } = .next t ∧ t.count = 1 :=
  ⟨inv_atStop.input _, _, rfl, rfl⟩

/-- Without `BEGIN`, and with it. -/
theorem witness_SpecInvariantsOnEveryRun :
    params.wellFormed = true ∧
    (∃ t, runEvents [.tick true] (State.resetWith params) = .next t ∧
      Instr.begin ∉ [Instr.tick true]) ∧
    (∃ t, runEvents [.begin, .tick true] (State.resetWith params) = .next t ∧
      Instr.begin ∈ [Instr.begin, .tick true]) :=
  ⟨by decide, ⟨_, rfl, by decide⟩, ⟨_, rfl, by decide⟩⟩

theorem witness_StepKeepsReceptionBegun :
    Inv { armed with input := [.event 0b0000#4] } ∧
    Started { armed with input := [.event 0b0000#4] } ∧
    (∀ rx c rest, ({ armed with input := [.event 0b0000#4] } : State).input ≠
      .edge true rx c :: rest) ∧
    ∃ t, step { armed with input := [.event 0b0000#4] } = .next t ∧ t.state = .sampling := by
  refine ⟨inv_armed.input _, ⟨fun _ => rfl, fun _ => rfl⟩, ?_, _, rfl, rfl⟩
  rintro rx c rest h
  injection h with h _
  cases h

theorem witness_DeafBeforeBegin :
    Inv small ∧ small.state = .idle ∧ small.edge_en = false := ⟨inv_small, by decide, by decide⟩

/-! ## Witnesses: runs -/

theorem witness_QueueIsFifo :
    Inv armedFull ∧ exec .begin armedFull = .next (respond 0 false (beginReception armedFull)) ∧
    Instr.begin ∉ [Instr.tick true, .read] ∧
    ∃ u, runEvents [.tick true, .read] (respond 0 false (beginReception armedFull)) = .next u :=
  ⟨inv_armedFull, rfl, by decide, _, rfl⟩

/-- From an empty and from a full queue. -/
theorem witness_NominalFramesKeepOldest :
    Inv armed ∧ ArmedIdle armed ∧ armed.rx_prev = true ∧
    Inv armedFull ∧ ArmedIdle armedFull ∧ armedFull.rx_prev = true ∧
    params.bitTicks ≤ params.firstTicks ∧ params.firstTicks < 2 * params.bitTicks :=
  ⟨inv_armed, armedIdle_armed.1, armedIdle_armed.2, inv_armedFull, armedIdle_armedFull.1,
    armedIdle_armedFull.2, by decide, by decide⟩

/-- The line lengths at which the clauses meet: 0, 5, 6, 33, 34, 37 and 38 ticks after the start. -/
theorem witness_FrameTimeline :
    Inv armed ∧ ArmedIdle armed ∧ armed.rx_prev = true ∧
    (∀ n ∈ [0, 5, 6, 33, 34, 37, 38],
      (List.replicate n true).length ≤ armed.cfg.firstTicks + 8 * armed.cfg.bitTicks) ∧
    (33 < armed.cfg.firstTicks + 7 * armed.cfg.bitTicks) ∧
    (armed.cfg.firstTicks + 7 * armed.cfg.bitTicks ≤ 34 ∧
      37 < armed.cfg.firstTicks + 8 * armed.cfg.bitTicks) ∧
    38 = armed.cfg.firstTicks + 8 * armed.cfg.bitTicks :=
  ⟨inv_armed, armedIdle_armed.1, armedIdle_armed.2, by decide, by decide, by decide, by decide⟩

/-- The line of a frame from its second tick to the stop sample. -/
def lineAfterStart (b : Byte) (stop : Level) : List Level :=
  ((waveform 4 (cells stop b)).drop 1).take 38

theorem lineAfterStart_samples :
    ∀ b ∈ [0x00#8, 0x41#8, 0xFF#8], ∀ stop : Level,
      (lineAfterStart b stop).length = armed.cfg.firstTicks + 8 * armed.cfg.bitTicks ∧
      (∀ i, i < 8 → (false :: lineAfterStart b stop)[armed.cfg.firstTicks + i * armed.cfg.bitTicks]? =
        some (b.getLsbD i)) ∧
      (false :: lineAfterStart b stop)[armed.cfg.firstTicks + 8 * armed.cfg.bitTicks]? =
        some stop := by
  decide

/-- With `lineAfterStart_samples`, for all four clauses: room, a full queue, a break, a framing error. -/
theorem witness_NineSamplesDecideFrame :
    Inv armed ∧ ArmedIdle armed ∧ armed.rx_prev = true ∧ armed.count < armed.cfg.cap ∧
    Inv armedFull ∧ ArmedIdle armedFull ∧ armedFull.rx_prev = true ∧
    armedFull.count = armedFull.cfg.cap ∧ armedFull.cfg = armed.cfg :=
  ⟨inv_armed, armedIdle_armed.1, armedIdle_armed.2, by decide, inv_armedFull,
    armedIdle_armedFull.1, armedIdle_armedFull.2, by decide, by decide⟩

theorem witness_RearmedWithinBoundedTicks :
    Inv inFrame ∧ Started inFrame ∧ Instr.begin ∉ Instr.read :: ticks (List.replicate 38 true) ∧
    inFrame.cfg.firstTicks + 8 * inFrame.cfg.bitTicks ≤
      tickCount (.read :: ticks (List.replicate 38 true)) :=
  ⟨inv_inFrame, ⟨fun h => (by cases h), fun h => (by cases h)⟩, by decide, by decide⟩

theorem witness_BadFrameCountedThenRecovered :
    Inv armedFull ∧ ArmedIdle armedFull ∧ armedFull.rx_prev = true ∧
    armedFull.cfg.bitTicks ≤ armedFull.cfg.firstTicks ∧
    armedFull.cfg.firstTicks < 2 * armedFull.cfg.bitTicks :=
  ⟨inv_armedFull, armedIdle_armedFull.1, armedIdle_armedFull.2, by decide, by decide⟩

theorem witness_OneTickGlitchReadsFF :
    Inv armed ∧ ArmedIdle armed ∧ armed.rx_prev = true ∧ armed.count < armed.cfg.cap :=
  ⟨inv_armed, armedIdle_armed.1, armedIdle_armed.2, by decide⟩

theorem witness_StuckLowLineIsSilent :
    (Inv { armed with rx_prev := false } ∧ ArmedIdle { armed with rx_prev := false }) ∧
    (Inv armed ∧ ArmedIdle armed ∧ armed.rx_prev = true ∧
      armed.cfg.firstTicks + 8 * armed.cfg.bitTicks < 39) :=
  ⟨⟨inv_armed.trackLine false, rfl, rfl⟩, inv_armed, armedIdle_armed.1, armedIdle_armed.2, by decide⟩

/-- The line of a transmitter at the nominal period, its start edge on tick 0. -/
def nominalLevel (b : Byte) (t : Nat) : Level := (nominalFrame 4 b).getD t true

theorem nominalLevel_ideal : IdealLine 4 0 0x41#8 (nominalLevel 0x41#8) := by
  intro t j hj h1 h2
  have h1' : j * 4 ≤ t := by rw [zero_add] at h1; exact_mod_cast h1
  have h2' : t < (j + 1) * 4 := by rw [zero_add] at h2; exact_mod_cast h2
  have key : ∀ j < 10, ∀ r < 4,
      nominalLevel 0x41#8 (j * 4 + r) = (cells true 0x41#8).getD j true := by decide
  have := key j hj (t - j * 4) (by omega)
  rwa [show j * 4 + (t - j * 4) = t by omega] at this

theorem witness_SamplesInOwnCellsReceiveByte :
    Inv armed ∧ ArmedIdle armed ∧ armed.rx_prev = true ∧ armed.count < armed.cfg.cap ∧
    (-1 : ℚ) < 0 ∧ (0 : ℚ) ≤ 0 ∧ IdealLine 4 0 0x41#8 (nominalLevel 0x41#8) ∧
    (∀ k : Nat, k ≤ 8 →
      (0 : ℚ) + (k + 1) * 4 ≤ ((armed.cfg.firstTicks + k * armed.cfg.bitTicks : Nat) : ℚ) ∧
      ((armed.cfg.firstTicks + k * armed.cfg.bitTicks : Nat) : ℚ) < 0 + (k + 2) * 4) := by
  refine ⟨inv_armed, armedIdle_armed.1, armedIdle_armed.2, by decide, by norm_num, le_refl _,
    nominalLevel_ideal, fun k _ => ?_⟩
  show (0 : ℚ) + (k + 1) * 4 ≤ ((6 + k * 4 : Nat) : ℚ) ∧ ((6 + k * 4 : Nat) : ℚ) < 0 + (k + 2) * 4
  push_cast
  constructor <;> linarith

/-! ## Witnesses: the two contexts -/

theorem witness_CommandOnValidationEdge :
    (∀ c, Inv { atStopFull with input := [.edge false true c] } ∧
      Validates { atStopFull with input := [.edge false true c] }) ∧
    atStopFull.count = atStopFull.cfg.cap ∧
    atStopFull.queue = 0x41#8 :: [0x01#8, 0x02#8, 0x03#8] :=
  ⟨fun _ => ⟨inv_atStopFull.input _, rfl, rfl, rfl, rfl⟩, by decide, by decide⟩

theorem witness_AnswersHideReceiverState :
    SameForConsumer inFrame { armed with sr := 0xFF#8 } ∧
    (∀ rx, Instr.tick rx ∉ [Instr.avail, .read, .begin, .ovf]) :=
  ⟨⟨rfl, rfl, rfl, fun _ => rfl, rfl, rfl, rfl⟩, by decide⟩

theorem witness_CommandsNeverDisturbReceiver :
    SameForReceiver atStop atStopFull ∧ Instr.begin ∉ [Instr.read, .tick true, .ovf] ∧
    (∃ t, runEvents [.read, .tick true, .ovf] atStop = .next t) ∧
    (∃ t, runEvents ([Instr.read, .tick true, .ovf].filter isTick) atStopFull = .next t) :=
  ⟨⟨rfl, rfl, rfl, rfl, rfl, rfl, rfl, rfl, rfl, rfl, rfl⟩, by decide, ⟨_, rfl⟩, ⟨_, rfl⟩⟩

end Sys2Proof.Tests
end

section
/-! A clock edge (00_scope.md R7): the response is a command's alone, since no part of a tick drives it. -/

namespace Sys2Proof.Machine

/-! ### Nothing a tick does drives the response -/

@[simp] theorem timerAdvance_resp (s : State) : (timerAdvance s).2.resp = s.resp := by
  rw [timerAdvance_frame]

@[simp] theorem shiftIn_resp (rx : Level) (s : State) : (shiftIn rx s).resp = s.resp := by
  unfold shiftIn
  split
  · exact completeSampling_resp _
  · rfl

@[simp] theorem push_resp (b : Byte) (s : State) : (push b s).2.resp = s.resp := by
  rcases Nat.lt_or_ge s.count s.cfg.cap with h | h
  · rw [push_notFull b s h]
    exact memWrite_resp (pushIndex s) b s
  · rw [push_full b s h]
    exact setOverflowed_resp s

@[simp] theorem judgeFrame_resp (rx : Level) (raw : Byte) (s : State) :
    (judgeFrame rx raw s).resp = s.resp := by
  unfold judgeFrame
  split
  · exact push_resp _ s
  · split
    · exact countBreak_resp s
    · exact countFramingError_resp s

@[simp] theorem validate_resp (rx : Level) (s : State) : (validate rx s).resp = s.resp := by
  simp [validate]

/-- A tick answers nothing: what was last driven on `rdata` and `rvalid` stays (R93). -/
theorem tick_resp {rx : Level} {s t : State} (h : exec (.tick rx) s = .next t) :
    t.resp = s.resp := by
  rcases tick_cases rx s t h with ⟨_, _, _, _, rfl⟩ | ⟨_, _, _, _, rfl⟩ | ⟨_, rfl⟩ | ⟨_, _, _, rfl⟩ <;>
    simp

/-! ### The clock edge -/

/-- A clock edge without reset is the decoded command and then the tick (R7). -/
theorem step_edge_command {s : State} {rx : Level} {c : CmdWord} {i : Instr} {rest : List Input}
    (hin : s.input = .edge false rx c :: rest) (hc : decodeCmd c = .ok i) :
    step s = andThen (exec i { s with input := rest }) (exec (.tick rx)) := by
  simp [step, hin, runInput, clockEdge, hc]

theorem decodeCmd_nop : decodeCmd 0b000#3 = .ok .nop := rfl

/-- Settles O5: both events answer (`exec_answers`), the step chains them, and the tick leaves the
command's response standing (`tick_resp`). -/
theorem clockEdgeRunsCommandThenTick : Obligations.ClockEdgeRunsCommandThenTick := by
  intro s rx c i rest hin hc
  obtain ⟨t, ht⟩ := exec_answers i { s with input := rest }
  obtain ⟨u, hu⟩ := exec_answers (.tick rx) t
  refine ⟨t, u, ht, hu, ?_, tick_resp hu, ?_⟩
  · rw [step_edge_command hin hc, ht]
    exact hu
  · rintro rfl
    obtain rfl : Instr.nop = i := Except.ok.inj (decodeCmd_nop.symm.trans hc)
    rw [exec_nop] at ht
    exact (Host.Outcome.next.inj ht).symm

end Sys2Proof.Machine
end

section
/-! The ten invariants of the spec on every run from reset (10_state.md R25): every event keeps items 1
to 9, `BEGIN` alone arms a block that has not begun, and after it the detector is armed exactly in `Idle`. -/

namespace Sys2Proof.Machine

/-! ### Runs, taken apart -/

theorem andThen_eq_next {o : Host.Outcome State Fault Refusal}
    {f : State → Host.Outcome State Fault Refusal} {t : State} :
    andThen o f = .next t ↔ ∃ u, o = .next u ∧ f u = .next t := by
  cases o <;> simp [andThen]

theorem runEvents_cons_eq_next {i : Instr} {es : List Instr} {s t : State} :
    runEvents (i :: es) s = .next t ↔ ∃ u, exec i s = .next u ∧ runEvents es u = .next t :=
  andThen_eq_next

/-- What every event of a run keeps holds where the run ends. -/
theorem runEvents_keeps {P : State → Prop} {es : List Instr} {s t : State}
    (hstep : ∀ i ∈ es, ∀ u v, P u → exec i u = .next v → P v)
    (h0 : P s) (h : runEvents es s = .next t) : P t := by
  induction es generalizing s with
  | nil => exact Host.Outcome.next.inj h ▸ h0
  | cons i es ih =>
    obtain ⟨u, hu, hrun⟩ := runEvents_cons_eq_next.mp h
    exact ih (fun j hj => hstep j (.tail i hj)) (hstep i (.head es) s u h0 hu) hrun

/-! ### What the parts of a tick leave alone -/

@[simp] theorem timerAdvance_state (s : State) : (timerAdvance s).2.state = s.state := by
  rw [timerAdvance_frame]

@[simp] theorem timerAdvance_edge_en (s : State) : (timerAdvance s).2.edge_en = s.edge_en := by
  rw [timerAdvance_frame]

@[simp] theorem timerAdvance_cfg (s : State) : (timerAdvance s).2.cfg = s.cfg := by
  rw [timerAdvance_frame]

@[simp] theorem shiftIn_cfg (rx : Level) (s : State) : (shiftIn rx s).cfg = s.cfg := by
  unfold shiftIn
  split
  · exact completeSampling_cfg _
  · rfl

@[simp] theorem shiftIn_edge_en (rx : Level) (s : State) : (shiftIn rx s).edge_en = s.edge_en := by
  unfold shiftIn
  split
  · exact completeSampling_edge_en _
  · rfl

/-- A data sample leaves the sequencer out of `Idle`. -/
theorem shiftIn_state_ne_idle {rx : Level} {s : State} (h : s.state = .sampling) :
    (shiftIn rx s).state ≠ .idle := by
  unfold shiftIn
  split
  · simp
  · simp [h]

/-- A push writes the queue alone. -/
theorem push_frame (b : Byte) (s : State) :
    (push b s).2 = { s with
      buf := (push b s).2.buf, count := (push b s).2.count,
      overflowed := (push b s).2.overflowed } := by
  rcases Nat.lt_or_ge s.count s.cfg.cap with h | h
  · rw [push_notFull b s h]; rfl
  · rw [push_full b s h]; rfl

/-- Judging a frame writes the queue and the error counters alone. -/
theorem judgeFrame_frame (rx : Level) (raw : Byte) (s : State) :
    judgeFrame rx raw s = { s with
      buf := (judgeFrame rx raw s).buf, count := (judgeFrame rx raw s).count,
      overflowed := (judgeFrame rx raw s).overflowed,
      ferr_cnt := (judgeFrame rx raw s).ferr_cnt, brk_cnt := (judgeFrame rx raw s).brk_cnt } := by
  unfold judgeFrame
  split
  · rw [push_frame]
  · split <;> rfl

@[simp] theorem judgeFrame_cfg (rx : Level) (raw : Byte) (s : State) :
    (judgeFrame rx raw s).cfg = s.cfg := by rw [judgeFrame_frame]

@[simp] theorem judgeFrame_sr_clk_en (rx : Level) (raw : Byte) (s : State) :
    (judgeFrame rx raw s).sr_clk_en = s.sr_clk_en := by rw [judgeFrame_frame]

@[simp] theorem judgeFrame_tmr_ie (rx : Level) (raw : Byte) (s : State) :
    (judgeFrame rx raw s).tmr_ie = s.tmr_ie := by rw [judgeFrame_frame]

@[simp] theorem judgeFrame_tmr_run (rx : Level) (raw : Byte) (s : State) :
    (judgeFrame rx raw s).tmr_run = s.tmr_run := by rw [judgeFrame_frame]

@[simp] theorem judgeFrame_tcnt (rx : Level) (raw : Byte) (s : State) :
    (judgeFrame rx raw s).tcnt = s.tcnt := by rw [judgeFrame_frame]

/-- A push never fills the queue past its capacity (R60). -/
theorem push_count_le {b : Byte} {s : State} (h : s.count ≤ s.cfg.cap) :
    (push b s).2.count ≤ s.cfg.cap := by
  rcases Nat.lt_or_ge s.count s.cfg.cap with hlt | hge
  · rw [push_notFull b s hlt]; exact hlt
  · rw [push_full b s hge]; exact h

theorem judgeFrame_count_le {rx : Level} {raw : Byte} {s : State} (h : s.count ≤ s.cfg.cap) :
    (judgeFrame rx raw s).count ≤ s.cfg.cap := by
  unfold judgeFrame
  split
  · exact push_count_le h
  · split <;> exact h

@[simp] theorem validate_cfg (rx : Level) (s : State) : (validate rx s).cfg = s.cfg := by
  simp [validate]

@[simp] theorem validate_state (rx : Level) (s : State) : (validate rx s).state = .idle := rfl

@[simp] theorem validate_edge_en (rx : Level) (s : State) : (validate rx s).edge_en = true := rfl

/-- No event changes the parameters (00_scope.md R4). -/
theorem exec_cfg {i : Instr} {s t : State} (h : exec i s = .next t) : t.cfg = s.cfg := by
  by_cases hi : ∃ rx, i = .tick rx
  · obtain ⟨rx, rfl⟩ := hi
    rcases tick_cases rx s t h with
      ⟨_, _, _, _, rfl⟩ | ⟨_, _, _, _, rfl⟩ | ⟨_, rfl⟩ | ⟨_, _, _, rfl⟩ <;> simp
  · rcases command_cases i s t (fun rx e => hi ⟨rx, e⟩) h with
      ⟨_, rfl⟩ | ⟨_, _, rfl⟩ | ⟨_, rfl⟩ | ⟨_, _, _, _, _, rfl, _⟩ <;> simp

/-! ### Items 1 to 9 -/

/-- A state in `Idle` with its enables off and its timer stopped at 0 meets items 1 to 9, armed or not:
the converse of `Inv.idle_facts`. -/
theorem SpecInvariants.of_idle {s : State} (hc : s.count ≤ s.cfg.cap) (hst : s.state = .idle)
    (hck : s.sr_clk_en = false) (hie : s.tmr_ie = false) (hrun : s.tmr_run = false)
    (ht : s.tcnt = 0) : SpecInvariants s := by
  constructor <;> simp [hc, hst, hck, hie, hrun, ht]

theorem specInvariants_resetWith (c : Config) : SpecInvariants (State.resetWith c) :=
  .of_idle (Nat.zero_le _) rfl rfl rfl rfl rfl

theorem specInvariants_beginReception (s : State) : SpecInvariants (beginReception s) :=
  .of_idle (Nat.zero_le _) rfl rfl rfl rfl rfl

/-- Only `count` and the receiver's fields matter, and an answer writes neither. -/
theorem SpecInvariants.respond {s : State} (h : SpecInvariants s) (d : Nat) (v : Bool) :
    SpecInvariants (respond d v s) :=
  h.congr rfl rfl rfl rfl rfl rfl rfl rfl h.item1 rfl

theorem SpecInvariants.trackLine {s : State} (h : SpecInvariants s) (rx : Level) :
    SpecInvariants (trackLine rx s) :=
  h.congr rfl rfl rfl rfl rfl rfl rfl rfl h.item1 rfl

theorem SpecInvariants.clearOverflowed {s : State} (h : SpecInvariants s) :
    SpecInvariants (clearOverflowed s) :=
  h.congr rfl rfl rfl rfl rfl rfl rfl rfl h.item1 rfl

theorem SpecInvariants.dropOldest {s : State} (h : SpecInvariants s) :
    SpecInvariants (dropOldest s) :=
  h.congr rfl rfl rfl rfl rfl rfl rfl rfl ((Nat.sub_le _ _).trans h.item1) rfl

/-- Every command keeps items 1 to 9. -/
theorem SpecInvariants.command {i : Instr} {s t : State} (hs : SpecInvariants s)
    (hi : ∀ rx, i ≠ .tick rx) (h : exec i s = .next t) : SpecInvariants t := by
  rcases command_cases i s t hi h with
    ⟨_, rfl⟩ | ⟨_, _, rfl⟩ | ⟨_, rfl⟩ | ⟨_, _, _, _, _, rfl, _⟩
  · exact (specInvariants_beginReception s).respond _ _
  · exact hs.dropOldest.respond _ _
  · exact hs.clearOverflowed.respond _ _
  · exact hs.respond _ _

/-- A running timer may be set to any count of 1 to `P`. -/
theorem SpecInvariants.setTimer {s : State} (h : SpecInvariants s) {n : Nat}
    (hrun : s.tmr_run = true) (h1 : 1 ≤ n) (hmax : n ≤ max s.cfg.bitTicks s.cfg.firstTicks)
    (hval : s.state = .validatingFrame → n ≤ s.cfg.bitTicks) :
    SpecInvariants { s with tcnt := n } where
  item1 := h.item1
  item2 := h.item2
  item3 := h.item3
  item4 := h.item4
  item5 := h.item5
  item6 := ⟨fun hstop => absurd (hrun.symm.trans hstop) nofun, fun _ => ⟨h1, hmax⟩⟩
  item7 := h.item7
  item8 := fun hv => ⟨(h.item8 hv).1, h1, hval hv⟩
  item9 := h.item9

/-- On a compare event the timer reloads `P` (R91). -/
theorem SpecInvariants.reloadTimer {s : State} (h : SpecInvariants s)
    (hcfg : s.cfg.wellFormed = true) (hrun : s.tmr_run = true) :
    SpecInvariants { s with tcnt := s.cfg.bitTicks } :=
  h.setTimer hrun (Nat.one_le_of_lt (Config.bounds hcfg).1) (le_max_left _ _) fun _ => le_rfl

theorem SpecInvariants.timerAdvance {s : State} (h : SpecInvariants s)
    (hcfg : s.cfg.wellFormed = true) : SpecInvariants (timerAdvance s).2 := by
  cases hrun : s.tmr_run with
  | false => rwa [timerAdvance_stopped s hrun]
  | true =>
    by_cases h1 : s.tcnt = 1
    · rw [timerAdvance_compare s hrun h1]
      exact h.reloadTimer hcfg hrun
    · rw [timerAdvance_count s hrun h1]
      obtain ⟨hpos, hmax⟩ := h.item6.2 hrun
      exact h.setTimer hrun (by omega) (by omega) fun hv => (Nat.sub_le _ _).trans (h.item8 hv).2.2

theorem SpecInvariants.startFrame {s : State} (h : SpecInvariants s) (hcfg : s.cfg.wellFormed = true)
    (hie : s.tmr_ie = false) : SpecInvariants (startFrame s) := by
  obtain ⟨_, hF, _⟩ := Config.bounds hcfg
  constructor <;> simp [h.item1, hie, hF]

/-- A register with no bit at or above `n` has none at or above `n + 1` after one more sample. -/
theorem shiftSample_shiftRight_eq_zero {v : Byte} {n : Nat} (rx : Level) (h : v >>> n = 0#8) :
    shiftSample v rx >>> (n + 1) = 0#8 := by
  ext i hi
  have hbit : v.getLsbD (n + i) = false := by
    rw [← BitVec.getLsbD_ushiftRight, h, BitVec.getLsbD_zero]
  have hpos : n + 1 + i = (n + i) + 1 := by omega
  simp [shiftSample, ← BitVec.getLsbD_eq_getElem, hpos, hbit]

/-- Sampling, with the timer just reloaded, a data sample keeps items 1 to 9; the eighth completes the
byte (R75, R76). -/
theorem SpecInvariants.shiftIn {s : State} (h : SpecInvariants s) (rx : Level)
    (hst : s.state = .sampling) (ht : s.tcnt = s.cfg.bitTicks) : SpecInvariants (shiftIn rx s) := by
  obtain ⟨hbit, hsr⟩ := h.item7 hst
  have hrun : s.tmr_run = true := h.item5.mpr (by simp [hst])
  have hee : s.edge_en = false := by simpa [hst] using h.item2
  have hP : 1 ≤ s.cfg.bitTicks := ht ▸ (h.item6.2 hrun).1
  have hsucc : (s.bitcnt + 1#4).toNat = s.bitcnt.toNat + 1 := by
    rw [BitVec.toNat_add_of_lt (show s.bitcnt.toNat + 1 < 16 by omega)]; rfl
  unfold Machine.shiftIn
  split
  next h8 =>
    constructor <;> simp [h.item1, hrun, hee, ht, hP, h8]
  next h8 =>
    have hlt : s.bitcnt.toNat + 1 ≠ 8 := fun e => h8 (BitVec.eq_of_toNat_eq (hsucc.trans e))
    exact
      { item1 := h.item1
        item2 := h.item2
        item3 := h.item3
        item4 := h.item4
        item5 := h.item5
        item6 := h.item6
        item7 := fun _ => ⟨hsucc ▸ by omega, hsucc ▸ shiftSample_shiftRight_eq_zero rx hsr⟩
        item8 := fun hv => absurd (hst.symm.trans hv) nofun
        item9 := h.item9 }

/-- Every validation ends in `Idle`, armed, the timer stopped (R88). -/
theorem SpecInvariants.validate {s : State} (h : SpecInvariants s) (rx : Level)
    (hck : s.sr_clk_en = false) : SpecInvariants (validate rx s) := by
  refine .of_idle ?_ rfl ?_ ?_ ?_ ?_
  · rw [validate_cfg]
    exact judgeFrame_count_le (s := timerStop { s with tmr_ie := false }) h.item1
  all_goals simp [Machine.validate, hck]

/-- Every tick keeps items 1 to 9. -/
theorem SpecInvariants.tick {rx : Level} {s t : State} (hs : SpecInvariants s)
    (hcfg : s.cfg.wellFormed = true) (h : exec (.tick rx) s = .next t) : SpecInvariants t := by
  have hadv := hs.timerAdvance hcfg
  rcases tick_cases rx s t h with
    ⟨hst, _, _, _, rfl⟩ | ⟨hst, _, hrun, _, rfl⟩ | ⟨⟨hst, _, hrun, _⟩, rfl⟩ | ⟨_, _, _, rfl⟩
  · have hie : (Machine.timerAdvance s).2.tmr_ie = false := by simpa [hst] using hadv.item4
    exact (hadv.startFrame (by rwa [timerAdvance_cfg]) hie).trackLine rx
  · exact ((hs.reloadTimer hcfg hrun).shiftIn rx hst rfl).trackLine rx
  · have hck : s.sr_clk_en = false := by simpa [hst] using hs.item3
    exact ((hs.reloadTimer hcfg hrun).validate rx hck).trackLine rx
  · exact hadv.trackLine rx

/-- Every event keeps items 1 to 9 of R25, for legal parameters. -/
theorem SpecInvariants.exec {i : Instr} {s t : State} (hs : SpecInvariants s)
    (hcfg : s.cfg.wellFormed = true) (h : exec i s = .next t) : SpecInvariants t := by
  by_cases hi : ∃ rx, i = .tick rx
  · obtain ⟨rx, rfl⟩ := hi
    exact hs.tick hcfg h
  · exact hs.command (fun rx e => hi ⟨rx, e⟩) h

/-! ### Item 10 -/

/-- No event but `BEGIN` takes a disarmed block out of `Idle` or arms it (R73). -/
theorem exec_keeps_disarmed {i : Instr} {s t : State} (hi : i ≠ .begin)
    (hs : s.state = .idle ∧ s.edge_en = false) (h : exec i s = .next t) :
    t.state = .idle ∧ t.edge_en = false := by
  obtain ⟨hst, hee⟩ := hs
  by_cases htick : ∃ rx, i = .tick rx
  · obtain ⟨rx, rfl⟩ := htick
    rcases tick_cases rx s t h with ⟨_, he, _⟩ | ⟨hsamp, _⟩ | ⟨⟨hval, _⟩, _⟩ | ⟨_, _, _, rfl⟩
    · exact absurd (hee.symm.trans he) nofun
    · exact absurd (hst.symm.trans hsamp) nofun
    · exact absurd (hst.symm.trans hval) nofun
    · simp [hst, hee]
  · rcases command_cases i s t (fun rx e => htick ⟨rx, e⟩) h with
      ⟨hb, _⟩ | ⟨_, _, rfl⟩ | ⟨_, rfl⟩ | ⟨_, _, _, _, _, rfl, _⟩
    · exact absurd hb hi
    all_goals simp [hst, hee]

theorem started_of_begin {s t : State} (h : exec .begin s = .next t) : Started t := by
  obtain rfl : respond 0 false (beginReception s) = t := Host.Outcome.next.inj h
  simp [Started]

/-- Once reception has begun, every event leaves the detector armed exactly in `Idle`. -/
theorem Started.exec {i : Instr} {s t : State} (hs : Started s) (h : exec i s = .next t) :
    Started t := by
  by_cases htick : ∃ rx, i = .tick rx
  · obtain ⟨rx, rfl⟩ := htick
    rcases tick_cases rx s t h with
      ⟨_, _, _, _, rfl⟩ | ⟨hst, _, _, _, rfl⟩ | ⟨_, rfl⟩ | ⟨_, _, _, rfl⟩
    · simp [Started]
    · have hee : s.edge_en = false := by simpa [Started, hst] using hs
      simp [Started, hee, shiftIn_state_ne_idle, hst]
    · simp [Started]
    · simpa [Started] using hs
  · rcases command_cases i s t (fun rx e => htick ⟨rx, e⟩) h with
      ⟨_, rfl⟩ | ⟨_, _, rfl⟩ | ⟨_, rfl⟩ | ⟨_, _, _, _, _, rfl, _⟩
    · simp [Started]
    all_goals simpa [Started] using hs

/-- From a `BEGIN` on, wherever it stands in the run, item 10 holds. -/
theorem started_of_begin_mem {es : List Instr} {s t : State} (hb : Instr.begin ∈ es)
    (h : runEvents es s = .next t) : Started t := by
  obtain ⟨before, after, rfl⟩ := List.append_of_mem hb
  rw [runEvents_append] at h
  obtain ⟨u, _, hu⟩ := andThen_eq_next.mp h
  obtain ⟨v, hv, hrun⟩ := runEvents_cons_eq_next.mp hu
  exact runEvents_keeps (fun _ _ _ _ hs => hs.exec) (started_of_begin hv) hrun

/-! ### The ten items on every run -/

theorem runEvents_keeps_specInvariants {es : List Instr} {s t : State}
    (hcfg : s.cfg.wellFormed = true) (hs : SpecInvariants s) (h : runEvents es s = .next t) :
    SpecInvariants t :=
  (runEvents_keeps (P := fun u => u.cfg.wellFormed = true ∧ SpecInvariants u)
    (fun _ _ _ _ hu hv => ⟨exec_cfg hv ▸ hu.1, hu.2.exec hu.1 hv⟩) ⟨hcfg, hs⟩ h).2

/-- Settles O35: reset meets items 1 to 9 and every event keeps them; a run without `BEGIN` stays
disarmed in `Idle`, and one with it is `Started` from there on. -/
theorem specInvariantsOnEveryRun : Obligations.SpecInvariantsOnEveryRun := by
  intro c es t hcfg h
  refine ⟨runEvents_keeps_specInvariants hcfg (specInvariants_resetWith c) h, fun hb => ?_,
    fun hb => started_of_begin_mem hb h⟩
  exact runEvents_keeps (P := fun u => u.state = .idle ∧ u.edge_en = false)
    (fun i hi _ _ hu => exec_keeps_disarmed (fun e => hb (e ▸ hi)) hu) ⟨rfl, rfl⟩ h

end Sys2Proof.Machine
end

section
/-! The decoder on the event words (30_encoding.md R49, R51): `ev[3]` selects the kind, and each kind
refuses its own reserved words. -/

namespace Sys2Proof

/-! ### The decoder's cases -/

/-- A word of kind `Tick` is reserved when `ev[2:1]` is not `00`. -/
theorem decode_of_tickKind_reserved {w : EventWord} (hkind : w.getLsbD 3 = false)
    (hpad : w.extractLsb' 1 2 ≠ 0b00#2) : decode w = .error (.reservedEvent w) := by
  rw [decode, if_pos hkind, if_neg hpad]

/-- A word of kind command is reserved when its code is. -/
theorem decode_of_commandKind_reserved {w : EventWord} {e : DecodeError}
    (hkind : w.getLsbD 3 = true) (hcode : decodeCmd (w.extractLsb' 0 3) = .error e) :
    decode w = .error (.reservedEvent w) := by
  simp [decode, hkind, hcode]

/-! ### The words of kind `Tick`, by number -/

theorem tickKind_of_le_seven {w : EventWord} (h : w.toNat ≤ 7) : w.getLsbD 3 = false :=
  Nat.testBit_lt_two_pow (show w.toNat < 2 ^ 3 by omega)

theorem tickPad_ne_zero {w : EventWord} (h2 : 2 ≤ w.toNat) (h7 : w.toNat ≤ 7) :
    w.extractLsb' 1 2 ≠ 0b00#2 := by
  intro h
  have hpad : w.toNat / 2 % 4 = 0 := by
    simpa [Nat.shiftRight_eq_div_pow] using congrArg BitVec.toNat h
  omega

/-! ### The table -/

/-- The reserved rows of R49: `0010` to `0111` break the form of a tick, `1111` carries the reserved
command code. -/
theorem decode_reserved {w : EventWord} (h : (2 ≤ w.toNat ∧ w.toNat ≤ 7) ∨ w = 0b1111#4) :
    decode w = .error (.reservedEvent w) := by
  rcases h with ⟨h2, h7⟩ | rfl
  · exact decode_of_tickKind_reserved (tickKind_of_le_seven h7) (tickPad_ne_zero h2 h7)
  · exact decode_of_commandKind_reserved (e := .reservedCommand 0b111#3) (by decide) (by decide)

/-- Settles O1: each row that names an event is that event's encoding, which decodes back
(`RoundTrip`); the other rows are `decode_reserved`. -/
theorem eventWordsDecode : Obligations.EventWordsDecode := by
  have htick (r : Level) : decode (encode (.tick r)) = .ok (.tick r) := (Laws.RoundTrip.tick r rfl).1
  exact ⟨htick, htick false, htick true, (Laws.RoundTrip.nop rfl).1, (Laws.RoundTrip.begin rfl).1,
    (Laws.RoundTrip.avail rfl).1, (Laws.RoundTrip.read rfl).1, (Laws.RoundTrip.ovf rfl).1,
    (Laws.RoundTrip.ferrc rfl).1, (Laws.RoundTrip.brkc rfl).1, fun _ => decode_reserved⟩

end Sys2Proof
end

section
/-! The byte queue's commands (40_byte_queue.md R61 to R63): AVAIL, READ and OVF, each with its command
code, its event word and the one state it leads to. -/

namespace Sys2Proof.Machine

/-- A command's code and its event word both name it (30_encoding.md R48, R49). -/
theorem decodes_of_roundTrip {i : Instr} {c : CmdWord} (h : Laws.RoundTrip.Statement i)
    (hi : i.wellFormed = true) (hc : encodeCmd i = some c) :
    decodeCmd c = .ok i ∧ decode (encode i) = .ok i := by
  obtain ⟨hword, -, hcode⟩ := h hi
  exact ⟨(hcode c hc).1, hword⟩

/-- A slot that a push has written holds that byte, no free value (10_state.md R19). -/
theorem memRead_eq_of_read {s : State} {i : Nat} {b : Byte} (h : Memory.read s.buf i = some b) :
    memRead s i = b := by
  rw [memRead, h, Option.getD_some]

/-- `OVF` on a state whose flag is already clear answers `(0, 1)` and writes nothing. -/
theorem exec_ovf_of_clear {s : State} (h : s.overflowed = false) :
    exec .ovf s = .next (respond 0 true s) := by
  have hclear : clearOverflowed s = s := by rw [clearOverflowed, ← h]
  rw [exec_ovf, hclear, h, Bool.toNat_false]

theorem overflowed_of_exec_ovf {s t : State} (h : exec .ovf s = .next t) : t.overflowed = false := by
  rw [exec_ovf] at h
  obtain rfl := Host.Outcome.next.inj h
  exact clearOverflowed_overflowed s

/-- Settles O13: `AVAIL` is one response and no write (`exec_avail`), and the count fits the response
bus (`count_fits`). -/
theorem availAnswersCount : Obligations.AvailAnswersCount := by
  obtain ⟨hcode, hword⟩ := decodes_of_roundTrip Laws.RoundTrip.avail rfl rfl
  exact ⟨hcode, hword, exec_avail, count_fits, fun c => exec_avail (State.resetWith c)⟩

/-- Settles O14: the queue is empty (`exec_read_empty`) or its oldest byte is answered and dropped
(`exec_read_nonempty`). -/
theorem readRemovesOldest : Obligations.ReadRemovesOldest := by
  obtain ⟨hcode, hword⟩ := decodes_of_roundTrip Laws.RoundTrip.read rfl rfl
  exact ⟨hcode, hword, exec_read_empty, exec_read_nonempty, fun _ _ => memRead_eq_of_read⟩

/-- Settles O16: the flag is answered as a number and cleared (`exec_ovf`); the second `OVF` meets it
clear (`exec_ovf_of_clear`). -/
theorem ovfTakesFlag : Obligations.OvfTakesFlag := by
  obtain ⟨hcode, hword⟩ := decodes_of_roundTrip Laws.RoundTrip.ovf rfl rfl
  refine ⟨hcode, hword, fun s => ?_, fun s t h => exec_ovf_of_clear (overflowed_of_exec_ovf h)⟩
  have hflag : s.overflowed.toNat = if s.overflowed = true then 1 else 0 := Bool.cond_eq_ite ..
  rw [← hflag]
  exact exec_ovf s

end Sys2Proof.Machine
end

section
/-! The start-bit detector (41_start_bit_detector.md R70, R72): a tick in `Idle` with the timer stopped is
the detector's alone, and only a low level makes it write. -/

namespace Sys2Proof.Machine

/-- In `Idle` with the timer stopped, the detector and the line are all that a tick runs (R93). -/
theorem exec_tick_of_idle {s : State} (rx : Level) (hidle : s.state = .idle)
    (hstop : s.tmr_run = false) :
    exec (.tick rx) s = .next (trackLine rx (detectEdge rx s)) := by
  have hhandler : handleEvent false rx s = detectEdge rx s := by rw [handleEvent, hidle]
  rw [exec, execTick, timerAdvance_stopped s hstop, hhandler]

/-- A high level starts no frame, be it a rising edge (R72) or no edge event at all (R70). -/
@[simp] theorem detectEdge_high (s : State) : detectEdge true s = s := by
  unfold detectEdge
  split
  · exact if_neg nofun
  · rfl

/-- Settles O21: the tick is the detector's (`exec_tick_of_idle`), which leaves the state alone on a high
level (`detectEdge_high`), so that only the line is tracked. -/
theorem risingEdgeIgnored : Obligations.RisingEdgeIgnored := by
  intro s hidle _ hstop _
  rw [exec_tick_of_idle true hidle hstop, detectEdge_high, trackLine]

end Sys2Proof.Machine
end

section
/-! The frame validator (43_frame_validator.md R80, R85): the four verdicts on a frame, each as the one
state it leads to, and `rev8` as the three index flips of its three lines. -/

namespace Sys2Proof.Machine

/-! ### The verdicts (R82 to R84) -/

/-- The saturation of R83 and R84, by the counter's last value. -/
theorem satInc8_eq_ite (c : Byte) : satInc8 c = if c = 255#8 then 255#8 else c + 1#8 := by
  have hlt : c.toNat < 255 ↔ ¬ c = 255#8 := by
    rw [← BitVec.toNat_inj]
    have hc := c.isLt
    show c.toNat < 255 ↔ ¬ c.toNat = 255
    omega
  simp only [satInc8, hlt, ite_not]

theorem judgeFrame_stored {raw : Byte} {s : State} (h : s.count < s.cfg.cap) :
    judgeFrame true raw s =
      { memWrite (pushIndex s) (rev8 raw) s with count := s.count + 1 } := by
  rw [judgeFrame, if_pos rfl, push_notFull _ s h]

theorem judgeFrame_dropped {raw : Byte} {s : State} (h : s.cfg.cap ≤ s.count) :
    judgeFrame true raw s = setOverflowed s := by
  rw [judgeFrame, if_pos rfl, push_full _ s h]

theorem judgeFrame_break (s : State) : judgeFrame false 0x00#8 s = countBreak s := rfl

theorem judgeFrame_framingError {raw : Byte} (s : State) (h : raw ≠ 0x00#8) :
    judgeFrame false raw s = countFramingError s := by
  rw [judgeFrame, if_neg nofun, if_neg h]

/-! ### The whole event -/

/-- A validation event stops the timer, which forgets the reload of its compare event, reaches its
verdict, and arms the detector whatever that was (R80). -/
theorem exec_tick_of_verdict {s t : State} {rx : Level} (h : Validates s)
    (hverdict : judgeFrame rx s.sr (timerStop { s with tmr_ie := false }) = t) :
    exec (.tick rx) s = .next (trackLine rx (rearm t)) :=
  hverdict ▸ exec_validates s rx h

/-- Settles O25: each of the four verdicts is an equation, and what the event writes around it is the
same on every path (`exec_tick_of_verdict`). -/
theorem validationOutcomes : Obligations.ValidationOutcomes := by
  rintro s u rx hval rfl
  refine ⟨?_, ?_, ?_, ?_⟩
  · rintro rfl hroom
    exact exec_tick_of_verdict hval (judgeFrame_stored hroom)
  · rintro rfl hfull
    exact exec_tick_of_verdict hval (judgeFrame_dropped hfull)
  · rintro rfl hsr
    rw [← satInc8_eq_ite]
    exact exec_tick_of_verdict hval (hsr ▸ judgeFrame_break _)
  · rintro rfl hsr
    rw [← satInc8_eq_ite]
    exact exec_tick_of_verdict hval (judgeFrame_framingError _ hsr)

/-! ### Bit reversal (R85) -/

theorem getLsbD_swapBits (x : Byte) {i : Nat} (hi : i < 8) :
    (swapBits x).getLsbD i = x.getLsbD (i ^^^ 1) := by
  interval_cases i <;> simp [swapBits]

theorem getLsbD_swapPairs (x : Byte) {i : Nat} (hi : i < 8) :
    (swapPairs x).getLsbD i = x.getLsbD (i ^^^ 2) := by
  interval_cases i <;> simp [swapPairs]

theorem getLsbD_swapNibbles (x : Byte) {i : Nat} (hi : i < 8) :
    (swapNibbles x).getLsbD i = x.getLsbD (i ^^^ 4) := by
  interval_cases i <;> simp [swapNibbles]

/-- The closed form: flipping the three bits of an index below 8 subtracts it from 7. -/
theorem getLsbD_rev8 (x : Byte) {i : Nat} (hi : i < 8) : (rev8 x).getLsbD i = x.getLsbD (7 - i) := by
  have h4 : i ^^^ 4 < 8 := Nat.xor_lt_two_pow (n := 3) hi (by decide)
  have h2 : i ^^^ 4 ^^^ 2 < 8 := Nat.xor_lt_two_pow (n := 3) h4 (by decide)
  have hflip : i ^^^ 4 ^^^ 2 ^^^ 1 = 7 - i := by interval_cases i <;> rfl
  rw [rev8, getLsbD_swapNibbles _ hi, getLsbD_swapPairs _ h4, getLsbD_swapBits _ h2, hflip]

theorem rev8_involutive : Function.Involutive rev8 := by
  intro x
  refine BitVec.eq_of_getLsbD_eq fun i hi => ?_
  rw [getLsbD_rev8 _ hi, getLsbD_rev8 x (by omega), Nat.sub_sub_self (by omega)]

/-- The fixed points are the sixteen bit-palindromes, by trying all 256 bytes. -/
theorem rev8_eq_self_iff : ∀ x : Byte, rev8 x = x ↔
    x ∈ [0x00#8, 0x18#8, 0x24#8, 0x3C#8, 0x42#8, 0x5A#8, 0x66#8, 0x7E#8,
         0x81#8, 0x99#8, 0xA5#8, 0xBD#8, 0xC3#8, 0xDB#8, 0xE7#8, 0xFF#8] := by
  decide

/-- Settles O28: bit by bit from the three lines of the definition (`getLsbD_rev8`), from which `rev8` is
an involution and so a bijection; the fixed points are `rev8_eq_self_iff`. -/
theorem rev8Laws : Obligations.Rev8Laws :=
  ⟨fun x _ hi => getLsbD_rev8 x hi, rev8_involutive, rev8_involutive.bijective, rev8_eq_self_iff⟩

end Sys2Proof.Machine
end

section
/-! The receiver controller (44_receiver_controller.md R96 to R98): NOP and BEGIN with their codes and their
whole effect, and the way back to `Idle`, along which every tick takes one from the ticks still to go. -/

namespace Sys2Proof.Machine

/-! ### NOP and BEGIN -/

/-- Settles O11: `NOP` is one response and no write (`exec_nop`). -/
theorem nopAnswersZero : Obligations.NopAnswersZero := by
  obtain ⟨hcode, hword⟩ := decodes_of_roundTrip Laws.RoundTrip.nop rfl rfl
  exact ⟨hcode, hword, exec_nop⟩

/-- Settles O12: `BEGIN` is the writes of `beginReception` and one response (`exec_begin`). -/
theorem beginRestartsReception : Obligations.BeginRestartsReception := by
  obtain ⟨hcode, hword⟩ := decodes_of_roundTrip Laws.RoundTrip.begin rfl rfl
  exact ⟨hcode, hword, exec_begin⟩

/-! ### The ticks still to go -/

/-- The ticks until the block is in `Idle` again: none in `Idle`, and in a frame those up to the next
compare event and one bit period for each data bit still missing. In `ValidatingFrame`, where none is
missing, the next compare event is the stop sample. -/
def ticksToIdle (s : State) : Nat :=
  if s.state = .idle then 0 else s.tcnt + (8 - s.bitcnt.toNat) * s.cfg.bitTicks

theorem ticksToIdle_of_idle {s : State} (h : s.state = .idle) : ticksToIdle s = 0 := if_pos h

theorem ticksToIdle_of_not_idle {s : State} (h : s.state ≠ .idle) :
    ticksToIdle s = s.tcnt + (8 - s.bitcnt.toNat) * s.cfg.bitTicks := if_neg h

/-- Only the receiver's own fields and the parameters matter. -/
theorem ticksToIdle_congr {s t : State} (hst : t.state = s.state) (ht : t.tcnt = s.tcnt)
    (hbit : t.bitcnt = s.bitcnt) (hcfg : t.cfg = s.cfg) : ticksToIdle t = ticksToIdle s := by
  simp only [ticksToIdle, hst, ht, hbit, hcfg]

/-- In a frame the timer runs and has not run out (R25 items 5 and 6). -/
theorem SpecInvariants.timer_of_not_idle {s : State} (h : SpecInvariants s) (hst : s.state ≠ .idle) :
    s.tmr_run = true ∧ 1 ≤ s.tcnt :=
  have hrun := h.item5.mpr hst
  ⟨hrun, (h.item6.2 hrun).1⟩

theorem SpecInvariants.idle_of_ticksToIdle_eq_zero {s : State} (h : SpecInvariants s)
    (h0 : ticksToIdle s = 0) : s.state = .idle := by
  by_contra hst
  have hpos := (h.timer_of_not_idle hst).2
  rw [ticksToIdle_of_not_idle hst] at h0
  omega

/-- From every state that meets the invariant it is at most `F + 8P` ticks: the sharp bounds on the timer
of `Inv` are what this needs (log entry 9). -/
theorem Inv.ticksToIdle_le {s : State} (h : Inv s) :
    ticksToIdle s ≤ s.cfg.firstTicks + 8 * s.cfg.bitTicks := by
  cases hst : s.state with
  | idle => simp [ticksToIdle_of_idle hst]
  | sampling =>
    rw [ticksToIdle_of_not_idle (by simp [hst])]
    by_cases h0 : s.bitcnt = 0#4
    · have hfirst := h.first_le hst h0
      simp [h0, hfirst]
    · have hnext := h.next_le hst h0
      have hpos : s.bitcnt.toNat ≠ 0 := fun e => h0 (BitVec.eq_of_toNat_eq e)
      have hmul := Nat.mul_le_mul_right s.cfg.bitTicks (show 8 - s.bitcnt.toNat ≤ 7 by omega)
      omega
  | validatingFrame =>
    obtain ⟨h8, -, hle⟩ := h.spec.item8 hst
    rw [ticksToIdle_of_not_idle (by simp [hst]), h8]
    simp only [BitVec.reduceToNat]
    omega

/-! ### One event -/

@[simp] theorem shiftIn_tcnt (rx : Level) (s : State) : (shiftIn rx s).tcnt = s.tcnt := by
  unfold shiftIn
  split
  · exact completeSampling_tcnt _
  · rfl

@[simp] theorem shiftIn_bitcnt (rx : Level) (s : State) :
    (shiftIn rx s).bitcnt = s.bitcnt + 1#4 := by
  unfold shiftIn
  split
  · exact completeSampling_bitcnt _
  · rfl

/-- A data sample trades one missing bit for a whole bit period on the timer: one tick less to go. -/
theorem SpecInvariants.ticksToIdle_shiftIn {s : State} (h : SpecInvariants s) (rx : Level)
    (hst : s.state = .sampling) (ht : s.tcnt = 1) :
    ticksToIdle (Machine.shiftIn rx { s with tcnt := s.cfg.bitTicks }) + 1 = ticksToIdle s := by
  obtain ⟨hbit, -⟩ := h.item7 hst
  obtain ⟨k, hk⟩ : ∃ k, 8 - s.bitcnt.toNat = k + 1 := ⟨7 - s.bitcnt.toNat, by omega⟩
  have hsucc : (s.bitcnt + 1#4).toNat = s.bitcnt.toNat + 1 := by
    rw [BitVec.toNat_add_of_lt (show s.bitcnt.toNat + 1 < 16 by omega)]; rfl
  have hmissing : 8 - (s.bitcnt + 1#4).toNat = k := by omega
  have hbusy : (Machine.shiftIn rx { s with tcnt := s.cfg.bitTicks }).state ≠ .idle :=
    shiftIn_state_ne_idle hst
  rw [ticksToIdle_of_not_idle hbusy, ticksToIdle_of_not_idle (by simp [hst])]
  simp only [shiftIn_tcnt, shiftIn_bitcnt, shiftIn_cfg, hmissing, hk, ht, Nat.succ_mul]
  omega

/-- Outside `Idle` every tick, whatever the line, is one tick less to go. -/
theorem SpecInvariants.ticksToIdle_tick {rx : Level} {s t : State} (hs : SpecInvariants s)
    (hst : s.state ≠ .idle) (h : Machine.exec (.tick rx) s = .next t) :
    ticksToIdle t + 1 = ticksToIdle s := by
  obtain ⟨hrun, hpos⟩ := hs.timer_of_not_idle hst
  rcases tick_cases rx s t h with
    ⟨hidle, _⟩ | ⟨hsamp, _, _, h1, rfl⟩ | ⟨⟨hval, _, _, h1⟩, rfl⟩ | ⟨_, hnosample, hnoval, rfl⟩
  · exact absurd hidle hst
  · exact hs.ticksToIdle_shiftIn rx hsamp h1
  · obtain ⟨h8, -, -⟩ := hs.item8 hval
    rw [ticksToIdle_of_idle (by simp), ticksToIdle_of_not_idle hst, h1, h8]
    simp
  · have h1 : s.tcnt ≠ 1 := by
      intro h1
      cases hc : s.state with
      | idle => exact hst hc
      | sampling => exact hnosample ⟨hc, hs.item3.mpr hc, hrun, h1⟩
      | validatingFrame => exact hnoval ⟨hc, hs.item4.mpr hc, hrun, h1⟩
    rw [timerAdvance_count s hrun h1, ticksToIdle_of_not_idle hst,
      ticksToIdle_of_not_idle (by simpa using hst)]
    simp only [trackLine_tcnt, trackLine_bitcnt, trackLine_cfg]
    omega

/-- No command but `BEGIN` brings the block nearer to `Idle` or holds it up. -/
theorem ticksToIdle_command {i : Instr} {s t : State} (hi : ∀ rx, i ≠ .tick rx) (hb : i ≠ .begin)
    (h : exec i s = .next t) : ticksToIdle t = ticksToIdle s := by
  rcases command_cases i s t hi h with
    ⟨rfl, _⟩ | ⟨_, _, rfl⟩ | ⟨_, rfl⟩ | ⟨_, _, _, _, _, rfl, _⟩
  · exact absurd rfl hb
  all_goals exact ticksToIdle_congr rfl rfl rfl rfl

/-! ### A run -/

theorem tickCount_command {i : Instr} (es : List Instr) (hi : ∀ rx, i ≠ .tick rx) :
    tickCount (i :: es) = tickCount es := by
  cases i with
  | tick rx => exact absurd rfl (hi rx)
  | _ => rfl

/-- Outside `Idle` an event other than `BEGIN` uses up the ticks still to go one for one. -/
theorem SpecInvariants.ticksToIdle_exec {i : Instr} {s t : State} (hs : SpecInvariants s)
    (hst : s.state ≠ .idle) (hb : i ≠ .begin) (h : Machine.exec i s = .next t) (es : List Instr) :
    tickCount (i :: es) + ticksToIdle t = tickCount es + ticksToIdle s := by
  by_cases htick : ∃ rx, i = .tick rx
  · obtain ⟨rx, rfl⟩ := htick
    have hless := hs.ticksToIdle_tick hst h
    rw [tickCount]
    omega
  · have hi : ∀ rx, i ≠ .tick rx := fun rx e => htick ⟨rx, e⟩
    rw [tickCount_command es hi, ticksToIdle_command hi hb h]

/-- A run with ticks enough and no `BEGIN` is in `Idle` when its ticks have used up those still to go. -/
theorem SpecInvariants.reaches_idle {es : List Instr} {s : State} (hs : SpecInvariants s)
    (hcfg : s.cfg.wellFormed = true) (hb : Instr.begin ∉ es) (hticks : ticksToIdle s ≤ tickCount es) :
    ∃ n t, n ≤ es.length ∧ tickCount (es.take n) = ticksToIdle s ∧
      runEvents (es.take n) s = .next t ∧ t.state = .idle := by
  induction es generalizing s with
  | nil =>
    have h0 : ticksToIdle s = 0 := Nat.le_zero.mp hticks
    exact ⟨0, s, le_rfl, h0.symm, rfl, hs.idle_of_ticksToIdle_eq_zero h0⟩
  | cons i es ih =>
    by_cases hst : s.state = .idle
    · exact ⟨0, s, Nat.zero_le _, (ticksToIdle_of_idle hst).symm, rfl, hst⟩
    · obtain ⟨hi, hes⟩ := List.ne_and_not_mem_of_not_mem_cons hb
      obtain ⟨u, hu⟩ := exec_answers i s
      have hspent := hs.ticksToIdle_exec hst hi.symm hu
      have hspentAll := hspent es
      have hticksU : ticksToIdle u ≤ tickCount es := by omega
      obtain ⟨n, t, hn, hcount, hrun, hidle⟩ :=
        ih (hs.exec hcfg hu) (exec_cfg hu ▸ hcfg) hes hticksU
      refine ⟨n + 1, t, Nat.succ_le_succ hn, ?_, ?_, hidle⟩
      · have hspentTaken := hspent (es.take n)
        rw [List.take_succ_cons]
        omega
      · rw [List.take_succ_cons, runEvents_cons _ _ _ _ hu, hrun]

/-- Settles O42: every tick takes one from `ticksToIdle`, which starts at `F + 8P` at most
(`Inv.ticksToIdle_le`), so the run reaches `Idle` in time; there the block is armed, since events keep
`Started`. -/
theorem rearmedWithinBoundedTicks : Obligations.RearmedWithinBoundedTicks := by
  intro s es hinv hstarted hb hticks
  obtain ⟨n, t, hn, hcount, hrun, hidle⟩ :=
    hinv.spec.reaches_idle hinv.cfg_ok hb (hinv.ticksToIdle_le.trans hticks)
  have hstartedT : Started t := runEvents_keeps (fun _ _ _ _ hu => hu.exec) hstarted hrun
  exact ⟨n, t, hn, hcount ▸ hinv.ticksToIdle_le, hrun, hidle, hstartedT.mpr hidle⟩

end Sys2Proof.Machine
end

section
/-! The reset edge (70_reset_and_hazards.md R120): the step is `hardReset` alone, with neither the command
nor the line level in it, and the block it leaves answers as an empty queue with no flag set. -/

namespace Sys2Proof.Machine

/-- With `rst = 1` the step is the reset and nothing else: `rx` and `c`, a reserved code included, do not
occur in its result (R120). -/
theorem step_edge_reset {s : State} {rx : Level} {c : CmdWord} {rest : List Input}
    (hin : s.input = .edge true rx c :: rest) :
    step s = .next (hardReset { s with input := rest }) := by
  simp [step, hin, runInput, clockEdge]

theorem exec_avail_hardReset (s : State) :
    exec .avail (hardReset s) = .next (respond 0 true (hardReset s)) := by
  rw [exec_avail, hardReset_count]

theorem exec_read_hardReset (s : State) :
    exec .read (hardReset s) = .next (respond 0 false (hardReset s)) :=
  exec_read_empty _ (hardReset_count s)

theorem exec_ovf_hardReset (s : State) :
    exec .ovf (hardReset s) = .next (respond 0 true (hardReset s)) :=
  exec_ovf_of_clear (hardReset_overflowed s)

/-- Settles O6: the step is `hardReset` (`step_edge_reset`), whose value at each element is a rule of its
own (`hardReset_state` and the rest of the simp set), and the three answers are those of an empty queue
and a clear flag. -/
theorem resetEdgeSetsEveryElement : Obligations.ResetEdgeSetsEveryElement := by
  intro s rx c rest hin
  refine ⟨hardReset { s with input := rest }, step_edge_reset hin, ?_⟩
  rw [exec_avail_hardReset, exec_read_hardReset, exec_ovf_hardReset]
  simp [respond]

end Sys2Proof.Machine
end

section
/-! What a tick writes (60_exceptions.md R112): short of a validation event only the receiver's own
elements, and at one the state of its verdict. -/

namespace Sys2Proof.Machine

/-! ### The saturating counters -/

theorem satInc8_toNat (c : Byte) : (satInc8 c).toNat = min 255 (c.toNat + 1) := by
  have hc := c.isLt
  unfold satInc8
  split
  · rw [BitVec.toNat_add_of_lt (show c.toNat + 1 < 256 by omega)]
    show c.toNat + 1 = _
    omega
  · show 255 = _
    omega

/-- A counter that changed was below 255, and went up by one. -/
theorem satInc8_toNat_of_ne {c : Byte} (h : satInc8 c ≠ c) : (satInc8 c).toNat = c.toNat + 1 := by
  have hc := c.isLt
  have hsat := satInc8_toNat c
  have hne : (satInc8 c).toNat ≠ c.toNat := fun e => h (BitVec.eq_of_toNat_eq e)
  omega

/-! ### Short of a validation event -/

theorem shiftIn_frame (rx : Level) (s : State) :
    shiftIn rx s = { s with
      sr := shiftSample s.sr rx, bitcnt := s.bitcnt + 1#4,
      sr_clk_en := (shiftIn rx s).sr_clk_en, tmr_ie := (shiftIn rx s).tmr_ie,
      state := (shiftIn rx s).state } := by
  unfold shiftIn
  split <;> rfl

/-- A tick that validates nothing writes the receiver's own elements alone. -/
theorem tick_frame_of_not_validates {rx : Level} {s t : State} (hval : ¬ Validates s)
    (h : exec (.tick rx) s = .next t) :
    t = { s with
      state := t.state, sr := t.sr, bitcnt := t.bitcnt, edge_en := t.edge_en,
      sr_clk_en := t.sr_clk_en, tmr_ie := t.tmr_ie, tmr_run := t.tmr_run, tcnt := t.tcnt,
      rx_prev := rx } := by
  rcases tick_cases rx s t h with
    ⟨_, _, _, _, rfl⟩ | ⟨_, _, _, _, rfl⟩ | ⟨hv, _⟩ | ⟨_, _, _, rfl⟩
  · rw [timerAdvance_frame]; rfl
  · rw [shiftIn_frame]; rfl
  · exact absurd hv hval
  · rw [timerAdvance_frame]; rfl

/-! ### At a validation event -/

/-- What every validation event writes, whatever its verdict (43_frame_validator.md R80, R88). -/
def rearmed (rx : Level) (s : State) : State :=
  { s with tmr_ie := false, tmr_run := false, tcnt := 0, edge_en := true, state := .idle,
           rx_prev := rx }

/-- The four verdicts, each as the one state it leads to (R82 to R84, 40_byte_queue.md R60). -/
inductive Verdict (s : State) : Level → State → Prop where
  | stored (hroom : s.count < s.cfg.cap) :
      Verdict s true { rearmed true s with
        buf := Memory.write s.buf (pushIndex s) (rev8 s.sr), count := s.count + 1 }
  | dropped (hfull : s.cfg.cap ≤ s.count) :
      Verdict s true { rearmed true s with overflowed := true }
  | broken (hsr : s.sr = 0x00#8) :
      Verdict s false { rearmed false s with brk_cnt := satInc8 s.brk_cnt }
  | misframed (hsr : s.sr ≠ 0x00#8) :
      Verdict s false { rearmed false s with ferr_cnt := satInc8 s.ferr_cnt }

/-- A validation event ends in the state of its verdict. -/
theorem Validates.verdict {rx : Level} {s t : State} (hval : Validates s)
    (h : exec (.tick rx) s = .next t) : Verdict s rx t := by
  have hout {u : State} (hu : exec (.tick rx) s = .next u) : u = t :=
    Host.Outcome.next.inj (hu.symm.trans h)
  cases rx with
  | true =>
    rcases Nat.lt_or_ge s.count s.cfg.cap with hc | hc
    · exact hout (exec_tick_of_verdict hval (judgeFrame_stored hc)) ▸ .stored hc
    · exact hout (exec_tick_of_verdict hval (judgeFrame_dropped hc)) ▸ .dropped hc
  | false =>
    by_cases hsr : s.sr = 0x00#8
    · exact hout (exec_tick_of_verdict hval (hsr ▸ judgeFrame_break _)) ▸ .broken hsr
    · exact hout (exec_tick_of_verdict hval (judgeFrame_framingError _ hsr)) ▸ .misframed hsr

/-! ### The frame of a tick, element by element -/

theorem tick_rx_prev {rx : Level} {s t : State} (h : exec (.tick rx) s = .next t) :
    t.rx_prev = rx := by
  obtain rfl := Host.Outcome.next.inj h
  rfl

theorem tick_head {rx : Level} {s t : State} (h : exec (.tick rx) s = .next t) :
    t.head = s.head := by
  by_cases hval : Validates s
  · cases hval.verdict h <;> rfl
  · rw [tick_frame_of_not_validates hval h]

theorem tick_input {rx : Level} {s t : State} (h : exec (.tick rx) s = .next t) :
    t.input = s.input := by
  by_cases hval : Validates s
  · cases hval.verdict h <;> rfl
  · rw [tick_frame_of_not_validates hval h]

/-- The tick stores a byte: a validation event with a high stop sample and room (R82). -/
def Stores (rx : Level) (s : State) : Prop := Validates s ∧ rx = true ∧ s.count < s.cfg.cap

theorem tick_stores {rx : Level} {s t : State} (hst : Stores rx s)
    (h : exec (.tick rx) s = .next t) :
    t.count = s.count + 1 ∧ t.buf = Memory.write s.buf (pushIndex s) (rev8 s.sr) := by
  obtain ⟨hval, rfl, hroom⟩ := hst
  cases hval.verdict h with
  | stored => exact ⟨rfl, rfl⟩
  | dropped hfull => omega

/-- A tick that stores no byte leaves the queue alone. -/
theorem tick_queue_kept {rx : Level} {s t : State} (hst : ¬ Stores rx s)
    (h : exec (.tick rx) s = .next t) : t.count = s.count ∧ t.buf = s.buf := by
  by_cases hval : Validates s
  · cases hval.verdict h with
    | stored hroom => exact absurd ⟨hval, rfl, hroom⟩ hst
    | _ => exact ⟨rfl, rfl⟩
  · rw [tick_frame_of_not_validates hval h]
    exact ⟨rfl, rfl⟩

theorem tick_overflowed_iff {rx : Level} {s t : State} (h : exec (.tick rx) s = .next t) :
    t.overflowed = true ↔
      s.overflowed = true ∨ (Validates s ∧ rx = true ∧ s.cfg.cap ≤ s.count) := by
  by_cases hval : Validates s
  · cases hval.verdict h with
    | stored hroom => simp [rearmed, Nat.not_le.mpr hroom]
    | dropped hfull => simp [hval, hfull]
    | broken => simp [rearmed]
    | misframed => simp [rearmed]
  · rw [tick_frame_of_not_validates hval h]
    simp [hval]

theorem tick_ferr_cnt {rx : Level} {s t : State} (h : exec (.tick rx) s = .next t)
    (hne : t.ferr_cnt ≠ s.ferr_cnt) :
    Validates s ∧ rx = false ∧ s.sr ≠ 0x00#8 ∧ t.ferr_cnt.toNat = s.ferr_cnt.toNat + 1 := by
  by_cases hval : Validates s
  · cases hval.verdict h with
    | misframed hsr => exact ⟨hval, rfl, hsr, satInc8_toNat_of_ne hne⟩
    | _ => exact absurd rfl hne
  · exact absurd (by rw [tick_frame_of_not_validates hval h]) hne

theorem tick_brk_cnt {rx : Level} {s t : State} (h : exec (.tick rx) s = .next t)
    (hne : t.brk_cnt ≠ s.brk_cnt) :
    Validates s ∧ rx = false ∧ s.sr = 0x00#8 ∧ t.brk_cnt.toNat = s.brk_cnt.toNat + 1 := by
  by_cases hval : Validates s
  · cases hval.verdict h with
    | broken hsr => exact ⟨hval, rfl, hsr, satInc8_toNat_of_ne hne⟩
    | _ => exact absurd rfl hne
  · exact absurd (by rw [tick_frame_of_not_validates hval h]) hne

/-- The shift register and its bit count change at a start edge and at a data sample only. -/
theorem tick_sr_bitcnt {rx : Level} {s t : State} (h : exec (.tick rx) s = .next t)
    (hne : t.sr ≠ s.sr ∨ t.bitcnt ≠ s.bitcnt) :
    (s.state = .idle ∧ s.edge_en = true ∧ s.rx_prev = true ∧ rx = false) ∨
    (s.state = .sampling ∧ s.sr_clk_en = true ∧ s.tmr_run = true ∧ s.tcnt = 1) := by
  rcases tick_cases rx s t h with
    ⟨hst, hee, hp, hrx, _⟩ | ⟨hst, hck, hrun, h1, _⟩ | ⟨hval, _⟩ | ⟨_, _, _, rfl⟩
  · exact .inl ⟨hst, hee, hp, hrx⟩
  · exact .inr ⟨hst, hck, hrun, h1⟩
  · cases hval.verdict h <;> exact absurd hne (by simp [rearmed])
  · rw [timerAdvance_frame] at hne
    exact absurd hne (by simp)

/-- Settles O26: every tick answers, and each element's rule above reads off either the verdict of a
validation event or the frame of any other tick. -/
theorem tickCompletesWithFrame : Obligations.TickCompletesWithFrame := by
  intro s rx
  obtain ⟨t, h⟩ := exec_answers (.tick rx) s
  refine ⟨t, h, tick_rx_prev h, tick_head h, exec_cfg h, tick_resp h, tick_input h,
    fun hst => ?_, fun hst => tick_queue_kept hst h, tick_overflowed_iff h, tick_ferr_cnt h,
    tick_brk_cnt h, tick_sr_bitcnt h⟩
  obtain ⟨hcount, hbuf⟩ := tick_stores hst h
  exact ⟨hcount, hbuf ▸ Memory.read_write_same _ _ _,
    fun a ha => hbuf ▸ Memory.read_write_other _ _ _ _ ha⟩

end Sys2Proof.Machine
end

section
/-! Encoding and decoding, both ways round (30_encoding.md R48, R49): every instruction's words decode back
to it, and a word that decodes is the encoding of what it decodes to. -/

namespace Sys2Proof

theorem roundTrip (i : Instr) : Laws.RoundTrip.Statement i := by
  cases i with
  | tick rx => exact Laws.RoundTrip.tick rx
  | nop => exact Laws.RoundTrip.nop
  | begin => exact Laws.RoundTrip.begin
  | avail => exact Laws.RoundTrip.avail
  | read => exact Laws.RoundTrip.read
  | ovf => exact Laws.RoundTrip.ovf
  | ferrc => exact Laws.RoundTrip.ferrc
  | brkc => exact Laws.RoundTrip.brkc

/-- The only operand of the table is one bit, and both of its values are legal (R47). -/
theorem Instr.wellFormed_eq_true (i : Instr) : i.wellFormed = true := by
  cases i <;> rfl

@[simp] theorem decode_encode (i : Instr) : decode (encode i) = .ok i :=
  (roundTrip i i.wellFormed_eq_true).1

theorem decodeCmd_of_encodeCmd {i : Instr} {c : CmdWord} (h : encodeCmd i = some c) :
    decodeCmd c = .ok i ∧ encode i = 1#1 ++ c :=
  (roundTrip i i.wellFormed_eq_true).2.2 c h

/-- By trying the sixteen event words. -/
theorem encode_of_decode {w : EventWord} {i : Instr} (h : decode w = .ok i) : encode i = w := by
  have htable : ∀ w : EventWord, ∀ j ∈ (decode w).toOption, encode j = w := by decide
  exact htable w i (by rw [h]; rfl)

/-- By trying the eight command codes. -/
theorem encodeCmd_of_decodeCmd {c : CmdWord} {i : Instr} (h : decodeCmd c = .ok i) :
    encodeCmd i = some c := by
  have htable : ∀ c : CmdWord, ∀ j ∈ (decodeCmd c).toOption, encodeCmd j = some c := by decide
  exact htable c i (by rw [h]; rfl)

/-- A command's event word is `1` followed by its code (R49). -/
theorem decode_one_append {c : CmdWord} {i : Instr} (h : decodeCmd c = .ok i) :
    decode (1#1 ++ c) = .ok i := by
  obtain ⟨-, hword⟩ := decodeCmd_of_encodeCmd (encodeCmd_of_decodeCmd h)
  rw [← hword, decode_encode]

/-- Settles O3: the round trip of every constructor one way (`roundTrip`), the tables the other way. -/
theorem encodeDecodeRoundTrip : Obligations.EncodeDecodeRoundTrip :=
  ⟨fun i _ => decode_encode i, fun _ _ => encode_of_decode,
    fun _ _ => ⟨fun h => (decodeCmd_of_encodeCmd h).1, encodeCmd_of_decodeCmd⟩⟩

/-- Settles O2: each code that names a command is that command's own (`decodeCmd_of_encodeCmd`), `111` is
the last branch of the table, and the event word of a command follows from its code
(`decode_one_append`). -/
theorem commandCodesDecode : Obligations.CommandCodesDecode := by
  have hcode {i : Instr} {c : CmdWord} (h : encodeCmd i = some c) : decodeCmd c = .ok i :=
    (decodeCmd_of_encodeCmd h).1
  exact ⟨hcode rfl, hcode rfl, hcode rfl, hcode rfl, hcode rfl, hcode rfl, hcode rfl, rfl,
    fun _ _ => decode_one_append⟩

/-! ### Which words decode -/

/-- The rows of R49 that name an event: `000r` and `1000` to `1110`. -/
theorem decode_answers {w : EventWord} (h : w.toNat ≤ 1 ∨ (8 ≤ w.toNat ∧ w.toNat ≤ 14)) :
    ∃ i, decode w = .ok i := by
  have htable : ∀ w : EventWord, w.toNat ≤ 1 ∨ (8 ≤ w.toNat ∧ w.toNat ≤ 14) →
      ((decode w).toOption.isSome = true) := by decide
  have hsome := htable w h
  cases hw : decode w with
  | ok i => exact ⟨i, rfl⟩
  | error e => rw [hw] at hsome; exact absurd hsome nofun

/-- Every command code but `111` names a command (R48). -/
theorem decodeCmd_answers {c : CmdWord} (h : c ≠ 0b111#3) : ∃ i, decodeCmd c = .ok i := by
  have htable : ∀ c : CmdWord, c ≠ 0b111#3 → (decodeCmd c).toOption.isSome = true := by decide
  have hsome := htable c h
  cases hc : decodeCmd c with
  | ok i => exact ⟨i, rfl⟩
  | error e => rw [hc] at hsome; exact absurd hsome nofun

end Sys2Proof
end

section
/-! The step, taken apart (00_scope.md R6, R7): no input, an event word, a reset edge, or a command and a
tick on one clock edge; and runs, which never stop and take none of the inputs still offered. -/

namespace Sys2Proof.Machine

/-! ### One input -/

theorem step_event {s : State} {w : EventWord} {i : Instr} {rest : List Input}
    (hin : s.input = .event w :: rest) (hw : decode w = .ok i) :
    step s = exec i { s with input := rest } := by
  simp [step, hin, runInput, runEventWord, hw]

theorem step_event_reserved {s : State} {w : EventWord} {e : DecodeError} {rest : List Input}
    (hin : s.input = .event w :: rest) (hw : decode w = .error e) :
    step s = .refused (.reservedEvent w) := by
  simp [step, hin, runInput, runEventWord, hw]

theorem step_edge_reserved {s : State} {rx : Level} {c : CmdWord} {e : DecodeError}
    {rest : List Input} (hin : s.input = .edge false rx c :: rest) (hc : decodeCmd c = .error e) :
    step s = .refused (.reservedCommand c) := by
  simp [step, hin, runInput, clockEdge, hc]

theorem step_no_input {s : State} (hin : s.input = []) : step s = .next s := by
  simp [step, hin]

/-- What a step that answers has done, once for every kind of input. -/
inductive StepCase (s t : State) : Prop where
  | quiet (hin : s.input = []) (ht : t = s)
  | event (w : EventWord) (i : Instr) (rest : List Input) (hin : s.input = .event w :: rest)
      (hexec : exec i { s with input := rest } = .next t)
  | reset (rx : Level) (c : CmdWord) (rest : List Input) (hin : s.input = .edge true rx c :: rest)
      (ht : t = hardReset { s with input := rest })
  | edge (rx : Level) (c : CmdWord) (i : Instr) (u : State) (rest : List Input)
      (hin : s.input = .edge false rx c :: rest) (hcmd : exec i { s with input := rest } = .next u)
      (htick : exec (.tick rx) u = .next t)

theorem stepCase_of_step {s t : State} (h : step s = .next t) : StepCase s t := by
  cases hin : s.input with
  | nil =>
    rw [step_no_input hin] at h
    exact .quiet hin (Host.Outcome.next.inj h).symm
  | cons input rest =>
    cases input with
    | event w =>
      cases hw : decode w with
      | ok i => exact .event w i rest hin (step_event hin hw ▸ h)
      | error e => rw [step_event_reserved hin hw] at h; exact absurd h nofun
    | edge rst rx c =>
      cases rst with
      | true =>
        rw [step_edge_reset hin] at h
        exact .reset rx c rest hin (Host.Outcome.next.inj h).symm
      | false =>
        cases hc : decodeCmd c with
        | error e => rw [step_edge_reserved hin hc] at h; exact absurd h nofun
        | ok i =>
          rw [step_edge_command hin hc] at h
          obtain ⟨u, hu, htick⟩ := andThen_eq_next.mp h
          exact .edge rx c i u rest hin hu htick

/-- What every event keeps, and the taking of an input with it, every step without a reset edge keeps. -/
theorem step_keeps {P : State → Prop} (hexec : ∀ i u v, P u → exec i u = .next v → P v)
    (hinput : ∀ u l, P u → P { u with input := l }) {s t : State}
    (hreset : ∀ rx c rest, s.input ≠ .edge true rx c :: rest) (hs : P s) (h : step s = .next t) :
    P t := by
  cases stepCase_of_step h with
  | quiet _ ht => exact ht ▸ hs
  | event w i rest _ hexec' => exact hexec i _ _ (hinput s rest hs) hexec'
  | reset rx c rest hin _ => exact absurd hin (hreset rx c rest)
  | edge rx c i u rest _ hcmd htick =>
    exact hexec _ _ _ (hexec i _ _ (hinput s rest hs) hcmd) htick

/-- Settles O4: the first branch of the step (`step_event`). -/
theorem stepRunsDecodedEvent : Obligations.StepRunsDecodedEvent :=
  fun _ _ _ _ hin hw => step_event hin hw

/-- An event word is one of the reserved ones, which the step refuses, or names an event, which answers. -/
theorem step_event_refused_or_answers {s : State} {w : EventWord} {rest : List Input}
    (hin : s.input = .event w :: rest) :
    (((2 ≤ w.toNat ∧ w.toNat ≤ 7) ∨ w.toNat = 15) ∧ step s = .refused (.reservedEvent w)) ∨
    ((w.toNat ≤ 1 ∨ (8 ≤ w.toNat ∧ w.toNat ≤ 14)) ∧ ∃ t, step s = .next t) := by
  by_cases hw : (2 ≤ w.toNat ∧ w.toNat ≤ 7) ∨ w.toNat = 15
  · refine .inl ⟨hw, step_event_reserved hin (decode_reserved ?_)⟩
    exact hw.imp_right fun h15 => BitVec.eq_of_toNat_eq h15
  · have hlt := w.isLt
    have hevent : w.toNat ≤ 1 ∨ (8 ≤ w.toNat ∧ w.toNat ≤ 14) := by omega
    obtain ⟨i, hi⟩ := decode_answers hevent
    exact .inr ⟨hevent, step_event hin hi ▸ exec_answers i _⟩

/-- An edge that is no reset refuses the reserved command and answers every other. -/
theorem step_edge_refused_or_answers {s : State} {rst : Bool} {rx : Level} {c : CmdWord}
    {rest : List Input} (hin : s.input = .edge rst rx c :: rest) :
    ((rst = false ∧ c = 0b111#3) ∧ step s = .refused (.reservedCommand c)) ∨
    ((rst = true ∨ c ≠ 0b111#3) ∧ ∃ t, step s = .next t) := by
  cases rst with
  | true => exact .inr ⟨.inl rfl, _, step_edge_reset hin⟩
  | false =>
    by_cases hc : c = 0b111#3
    · have herror : decodeCmd c = .error (.reservedCommand 0b111#3) := by rw [hc]; rfl
      exact .inl ⟨⟨rfl, hc⟩, step_edge_reserved hin herror⟩
    · obtain ⟨i, hi⟩ := decodeCmd_answers hc
      obtain ⟨u, hu⟩ := exec_answers i { s with input := rest }
      refine .inr ⟨.inr hc, ?_⟩
      rw [step_edge_command hin hi, hu]
      exact exec_answers (.tick rx) u

/-- Settles O7: with no input the step is silent, and the two kinds of input are the two lemmas above. -/
theorem stepRefusesOnlyReservedCodes : Obligations.StepRefusesOnlyReservedCodes :=
  fun _ => ⟨step_no_input, fun _ _ => step_event_refused_or_answers,
    fun _ _ _ _ => step_edge_refused_or_answers⟩

/-! ### Events leave the inputs alone -/

/-- No event takes an input. -/
theorem exec_input {i : Instr} {s t : State} (h : exec i s = .next t) : t.input = s.input := by
  by_cases htick : ∃ rx, i = .tick rx
  · obtain ⟨rx, rfl⟩ := htick
    exact tick_input h
  · rcases command_cases i s t (fun rx e => htick ⟨rx, e⟩) h with
      ⟨_, rfl⟩ | ⟨_, _, rfl⟩ | ⟨_, rfl⟩ | ⟨_, _, _, _, _, rfl, _⟩ <;> simp

/-- Settles O8: no event changes the parameters or takes an input (`exec_cfg`, `exec_input`), so that the
step's own taking of one is all there is. -/
theorem stepKeepsParametersAndTakesOneInput : Obligations.StepKeepsParametersAndTakesOneInput := by
  intro s t h
  cases stepCase_of_step h with
  | quiet hin ht => simp [ht, hin]
  | event w i rest hin hexec => exact ⟨(exec_cfg hexec :), by rw [exec_input hexec, hin]; rfl⟩
  | reset rx c rest hin ht => simp [ht, hin]
  | edge rx c i u rest hin hcmd htick =>
    exact ⟨(exec_cfg htick).trans (exec_cfg hcmd :),
      by rw [exec_input htick, exec_input hcmd, hin]; rfl⟩

/-- Settles O10: every event answers (`exec_answers`) and takes no input (`exec_input`). -/
theorem everyRunContinues : Obligations.EveryRunContinues := by
  intro es s
  induction es generalizing s with
  | nil => exact ⟨s, rfl, rfl⟩
  | cons i es ih =>
    obtain ⟨u, hu⟩ := exec_answers i s
    obtain ⟨t, ht, hin⟩ := ih u
    exact ⟨t, runEvents_cons i es s u hu ▸ ht, hin.trans (exec_input hu)⟩

/-! ### Events do not look at the inputs -/

/-- `s` with other inputs still to come. -/
def withInput (l : List Input) (s : State) : State := { s with input := l }

theorem timerAdvance_withInput (l : List Input) (s : State) :
    timerAdvance (withInput l s) = ((timerAdvance s).1, withInput l (timerAdvance s).2) := by
  cases hrun : s.tmr_run with
  | false => rw [timerAdvance_stopped s hrun, timerAdvance_stopped (withInput l s) hrun]
  | true =>
    by_cases h1 : s.tcnt = 1
    · rw [timerAdvance_compare s hrun h1, timerAdvance_compare (withInput l s) hrun h1]; rfl
    · rw [timerAdvance_count s hrun h1, timerAdvance_count (withInput l s) hrun h1]; rfl

theorem detectEdge_withInput (l : List Input) (rx : Level) (s : State) :
    detectEdge rx (withInput l s) = withInput l (detectEdge rx s) := by
  cases rx with
  | true => simp
  | false => exact (apply_ite (withInput l) (edgeEvent false s = true) (startFrame s) s).symm

theorem shiftIn_withInput (l : List Input) (rx : Level) (s : State) :
    shiftIn rx (withInput l s) = withInput l (shiftIn rx s) := by
  rw [shiftIn, shiftIn, apply_ite (withInput l)]; rfl

theorem push_withInput (l : List Input) (b : Byte) (s : State) :
    (push b (withInput l s)).2 = withInput l (push b s).2 := by
  rcases Nat.lt_or_ge s.count s.cfg.cap with h | h
  · rw [push_notFull b s h, push_notFull b (withInput l s) h]; rfl
  · rw [push_full b s h, push_full b (withInput l s) h]; rfl

theorem judgeFrame_withInput (l : List Input) (rx : Level) (raw : Byte) (s : State) :
    judgeFrame rx raw (withInput l s) = withInput l (judgeFrame rx raw s) := by
  cases rx with
  | true => exact push_withInput l _ s
  | false => exact (apply_ite (withInput l) (raw = 0x00#8) (countBreak s) (countFramingError s)).symm

theorem validate_withInput (l : List Input) (rx : Level) (s : State) :
    validate rx (withInput l s) = withInput l (validate rx s) :=
  congrArg rearm (judgeFrame_withInput l rx s.sr (timerStop { s with tmr_ie := false }))

theorem handleEvent_withInput (l : List Input) (cmp : Bool) (rx : Level) (s : State) :
    handleEvent cmp rx (withInput l s) = withInput l (handleEvent cmp rx s) := by
  have hstate : (withInput l s).state = s.state := rfl
  unfold handleEvent
  rw [hstate]
  cases s.state with
  | idle => exact detectEdge_withInput l rx s
  | sampling =>
    rw [shiftIn_withInput]
    exact (apply_ite (withInput l) ((cmp && s.sr_clk_en) = true) _ _).symm
  | validatingFrame =>
    rw [validate_withInput]
    exact (apply_ite (withInput l) ((cmp && s.tmr_ie) = true) _ _).symm

/-- An event does the same whatever is still to come. -/
theorem exec_withInput {i : Instr} {s t : State} (l : List Input) (h : exec i s = .next t) :
    exec i (withInput l s) = .next (withInput l t) := by
  cases i with
  | tick rx =>
    obtain rfl := Host.Outcome.next.inj h
    rw [exec, execTick, timerAdvance_withInput, handleEvent_withInput]; rfl
  | read =>
    by_cases hc : s.count = 0
    · rw [exec_read_empty s hc] at h
      rw [exec_read_empty (withInput l s) hc, ← Host.Outcome.next.inj h]; rfl
    · rw [exec_read_nonempty s hc] at h
      rw [exec_read_nonempty (withInput l s) hc, ← Host.Outcome.next.inj h]; rfl
  | _ => obtain rfl := Host.Outcome.next.inj h; rfl

theorem core_run_succ {n : Nat} {s t : State} (h : step s = .next t) :
    Host.Core.run Sys2Proof.core (n + 1) s = Host.Core.run Sys2Proof.core n t := by
  have hrun (M : Host.Core) (u v : M.State) (hu : M.step u = .next v) :
      M.run (n + 1) u = M.run n v := by rw [Host.Core.run, hu]
  exact hrun Sys2Proof.core s t h

/-- An event's own word, offered next, is that event with the other words still to come. -/
theorem step_encode {i : Instr} {s t : State} (l : List Input) (h : exec i s = .next t) :
    step (withInput (.event (encode i) :: l) s) = .next (withInput l t) :=
  (step_event (s := withInput (.event (encode i) :: l) s) rfl (decode_encode i)).trans
    (exec_withInput (s := s) l h)

/-- Settles O9: the step takes the event's own word and does to the state with the rest of the words
offered what the event does without them (`step_encode`). -/
theorem eventRunsAreStepRuns : Obligations.EventRunsAreStepRuns := by
  intro es s t rest h
  induction es generalizing s with
  | nil => exact h
  | cons i es ih =>
    obtain ⟨u, hu, hrun⟩ := runEvents_cons_eq_next.mp h
    have hin : u.input = rest := exec_input hu
    have hrest : u = withInput rest u := by rw [withInput, ← hin]
    have hstep := step_encode (es.map (fun i => .event (encode i)) ++ rest) hu
    calc Host.Core.run Sys2Proof.core (es.length + 1) _
        = Host.Core.run Sys2Proof.core es.length _ := core_run_succ hstep
      _ = .next t := ih u (hrest ▸ hrun)

end Sys2Proof.Machine
end

section
/-! The invariant `Inv` at reset and over every step (10_state.md R25, log entry 9): the queue's part by
what a tick and a `READ` do to it, the timer's bound by the tick's cases. -/

namespace Sys2Proof.Machine

/-! ### The queue's part -/

/-- The queue's invariants depend on `head`, `count`, the memory and the parameters only. -/
theorem QueueInvariants.congr {s t : State} (h : QueueInvariants s) (hhead : t.head = s.head)
    (hcount : t.count = s.count) (hbuf : t.buf = s.buf) (hcfg : t.cfg = s.cfg) :
    QueueInvariants t := by
  obtain ⟨hlt, hwf, hrange, hlive⟩ := h
  constructor <;> simpa only [slotIndex, hhead, hcount, hbuf, hcfg]

/-- Storing a byte behind the last one keeps them: its slot is in range, and no live slot is lost. -/
theorem QueueInvariants.store {s t : State} {b : Byte} (h : QueueInvariants s)
    (hhead : t.head = s.head) (hcfg : t.cfg = s.cfg) (hcount : t.count = s.count + 1)
    (hbuf : t.buf = Memory.write s.buf (pushIndex s) b) : QueueInvariants t where
  head_lt := by rw [hhead, hcfg]; exact h.head_lt
  buf_wf := hbuf ▸ Memory.write_wf _ _ _ h.buf_wf
  buf_range i c hread := by
    rw [hcfg]
    by_cases hi : i = pushIndex s
    · exact hi ▸ slotIndex_lt s s.count
    · rw [hbuf, Memory.read_write_other _ _ _ _ hi] at hread
      exact h.buf_range i c hread
  live j hj := by
    have hslot : slotIndex t j = slotIndex s j := by simp only [slotIndex, hhead, hcfg]
    rw [hslot, hbuf]
    by_cases hi : slotIndex s j = pushIndex s
    · exact ⟨b, hi ▸ Memory.read_write_same _ _ _⟩
    · have hne : j ≠ s.count := fun e => hi (e ▸ rfl)
      rw [Memory.read_write_other _ _ _ _ hi]
      exact h.live j (by omega)

theorem QueueInvariants.dropOldest {s : State} (h : QueueInvariants s) :
    QueueInvariants (dropOldest s) where
  head_lt := Nat.mod_lt _ (Config.cap_pos _)
  buf_wf := h.buf_wf
  buf_range := h.buf_range
  live j hj := by
    rw [slotIndex_dropOldest]
    rw [dropOldest_count] at hj
    exact h.live (j + 1) (by omega)

theorem QueueInvariants.tick {rx : Level} {s t : State} (hq : QueueInvariants s)
    (h : exec (.tick rx) s = .next t) : QueueInvariants t := by
  by_cases hst : Stores rx s
  · obtain ⟨hcount, hbuf⟩ := tick_stores hst h
    exact hq.store (tick_head h) (exec_cfg h) hcount hbuf
  · obtain ⟨hcount, hbuf⟩ := tick_queue_kept hst h
    exact hq.congr (tick_head h) hcount hbuf (exec_cfg h)

/-! ### One event -/

/-- A tick leaves `F` ticks at most before the first sample and `P` at most between samples. -/
theorem Inv.tick_timer {rx : Level} {s t : State} (hs : Inv s) (h : exec (.tick rx) s = .next t)
    (hst : t.state = .sampling) :
    (t.bitcnt = 0#4 → t.tcnt ≤ t.cfg.firstTicks) ∧ (t.bitcnt ≠ 0#4 → t.tcnt ≤ t.cfg.bitTicks) := by
  rcases tick_cases rx s t h with
    ⟨_, _, _, _, rfl⟩ | ⟨hsamp, _, _, _, rfl⟩ | ⟨_, rfl⟩ | ⟨_, hnosample, _, rfl⟩
  · simp
  · obtain ⟨h7, -⟩ := hs.spec.item7 hsamp
    have hne : s.bitcnt + 1#4 ≠ 0#4 := by bv_omega
    simp [hne]
  · simp at hst
  · have hsamp : s.state = .sampling := by simpa using hst
    have hrun : s.tmr_run = true := hs.spec.item5.mpr (by simp [hsamp])
    have h1 : s.tcnt ≠ 1 := fun h1 => hnosample ⟨hsamp, hs.spec.item3.mpr hsamp, hrun, h1⟩
    rw [timerAdvance_count s hrun h1]
    exact ⟨fun h0 => (Nat.sub_le _ _).trans (hs.first_le hsamp h0),
      fun h0 => (Nat.sub_le _ _).trans (hs.next_le hsamp h0)⟩

theorem Inv.tick {rx : Level} {s t : State} (hs : Inv s) (h : exec (.tick rx) s = .next t) :
    Inv t where
  cfg_ok := exec_cfg h ▸ hs.cfg_ok
  spec := hs.spec.tick hs.cfg_ok h
  queue := hs.queue.tick h
  first_le hst := (hs.tick_timer h hst).1
  next_le hst := (hs.tick_timer h hst).2
  resp_fits := by
    rw [tick_resp h, exec_cfg h]
    exact hs.resp_fits

theorem Inv.dropOldest {s : State} (h : Inv s) : Inv (dropOldest s) :=
  ⟨h.cfg_ok, h.spec.dropOldest, h.queue.dropOldest, h.first_le, h.next_le, h.resp_fits⟩

theorem Inv.clearOverflowed {s : State} (h : Inv s) : Inv (clearOverflowed s) :=
  ⟨h.cfg_ok, h.spec.clearOverflowed, h.queue.congr rfl rfl rfl rfl, h.first_le, h.next_le,
    h.resp_fits⟩

/-- Every command keeps the invariant: its answer is 0, the count, a flag or a byte, and each fits. -/
theorem Inv.command {i : Instr} {s t : State} (hs : Inv s) (hi : ∀ rx, i ≠ .tick rx)
    (h : Machine.exec i s = .next t) : Inv t := by
  have hbyte (d : Nat) (hd : d < 256) : d < 2 ^ s.cfg.rw := Config.byte_fits s.cfg d hd
  rcases command_cases i s t hi h with
    ⟨_, rfl⟩ | ⟨_, _, rfl⟩ | ⟨_, rfl⟩ | ⟨_, _, _, d, v, rfl, hd⟩
  · exact hs.beginReception.respond _ _ (hbyte 0 (by omega))
  · exact hs.dropOldest.respond _ _ (hbyte _ (memRead s s.head).isLt)
  · have hflag := Bool.toNat_lt s.overflowed
    exact hs.clearOverflowed.respond _ _ (hbyte _ (by omega))
  · refine hs.respond _ _ ?_
    rcases hd with rfl | rfl | hd
    · exact hbyte 0 (by omega)
    · exact count_fits s hs.spec.item1
    · exact hbyte d hd

/-- Every event keeps the invariant. -/
theorem Inv.exec {i : Instr} {s t : State} (hs : Inv s) (h : Machine.exec i s = .next t) : Inv t := by
  by_cases htick : ∃ rx, i = .tick rx
  · obtain ⟨rx, rfl⟩ := htick
    exact hs.tick h
  · exact hs.command (fun rx e => htick ⟨rx, e⟩) h

/-! ### Every step, and reset -/

/-- Settles O34: a reset edge establishes the invariant (`Inv.hardReset`), and every other step is events,
each of which keeps it (`Inv.exec`). -/
theorem stepKeepsInvariant : Obligations.StepKeepsInvariant := by
  intro s t hs h
  cases stepCase_of_step h with
  | quiet _ ht => exact ht ▸ hs
  | event w i rest _ hexec => exact (hs.input rest).exec hexec
  | reset rx c rest _ ht => exact ht ▸ (hs.input rest).hardReset
  | edge rx c i u rest _ hcmd htick => exact ((hs.input rest).exec hcmd).exec htick

/-- Settles O36: every event keeps `Started` (`Started.exec`), so every step but a reset edge does. -/
theorem stepKeepsReceptionBegun : Obligations.StepKeepsReceptionBegun :=
  fun _ _ _ hs hreset h => step_keeps (fun _ _ _ hu => hu.exec) (fun _ _ hu => hu) hreset hs h

theorem inv_resetWith {c : Config} (hc : c.wellFormed = true) : Inv (State.resetWith c) where
  cfg_ok := hc
  spec := specInvariants_resetWith c
  queue := .of_checks _ (Config.cap_pos c) .nil nofun nofun
  first_le := nofun
  next_le := nofun
  resp_fits := nofun

/-- Settles O33: reset is an empty queue and a stopped block, for all legal parameters, those of the
source's example among them. -/
theorem resetMeetsInvariant : Obligations.ResetMeetsInvariant :=
  ⟨fun _ => inv_resetWith, inv_resetWith (by decide)⟩

/-! ### The transitions of R94 -/

/-- A data sample leaves `Sampling` only when it is the eighth (R76). -/
theorem bitcnt_of_shiftIn_state_ne {rx : Level} {s : State}
    (h : (shiftIn rx s).state ≠ s.state) :
    (shiftIn rx s).state = .validatingFrame ∧ s.bitcnt = 7#4 := by
  unfold shiftIn at h ⊢
  split at h
  next h8 => exact ⟨by simp [h8], by bv_omega⟩
  next => exact absurd rfl h

/-- Settles O27: the tick's cases (`tick_cases`) give the three transitions of a frame, and of the
commands only `BEGIN` writes `state`. -/
theorem onlyTheFourTransitions : Obligations.OnlyTheFourTransitions := by
  intro i s t _ h hne
  by_cases htick : ∃ rx, i = .tick rx
  · obtain ⟨rx, rfl⟩ := htick
    rcases tick_cases rx s t h with
      ⟨hst, hee, hp, rfl, rfl⟩ | ⟨hst, _, _, h1, rfl⟩ | ⟨⟨hst, _, _, h1⟩, rfl⟩ | ⟨_, _, _, rfl⟩
    · exact .inl ⟨hst, rfl, rfl, hee, hp⟩
    · obtain ⟨hval, h7⟩ := bitcnt_of_shiftIn_state_ne hne
      exact .inr (.inl ⟨hst, hval, ⟨rx, rfl⟩, h1, h7⟩)
    · exact .inr (.inr (.inl ⟨hst, rfl, ⟨rx, rfl⟩, h1⟩))
    · exact absurd (timerAdvance_state s) hne
  · rcases command_cases i s t (fun rx e => htick ⟨rx, e⟩) h with
      ⟨rfl, rfl⟩ | ⟨_, _, rfl⟩ | ⟨_, rfl⟩ | ⟨_, _, _, _, _, rfl, _⟩
    · exact .inr (.inr (.inr ⟨rfl, rfl⟩))
    all_goals exact absurd rfl hne

end Sys2Proof.Machine
end

section
/-! The commands' frame (60_exceptions.md R112) and the two counter reads (43_frame_validator.md R86,
R87). -/

namespace Sys2Proof.Machine

/-- Settles O17: `FERRC` is one response and no write (`exec_ferrc`). -/
theorem ferrcReadsCounter : Obligations.FerrcReadsCounter := by
  obtain ⟨hcode, hword⟩ := decodes_of_roundTrip Laws.RoundTrip.ferrc rfl rfl
  exact ⟨hcode, hword, exec_ferrc⟩

/-- Settles O18: `BRKC` is one response and no write (`exec_brkc`). -/
theorem brkcReadsCounter : Obligations.BrkcReadsCounter := by
  obtain ⟨hcode, hword⟩ := decodes_of_roundTrip Laws.RoundTrip.brkc rfl rfl
  exact ⟨hcode, hword, exec_brkc⟩

/-- Settles O19: of the commands other than `BEGIN`, `READ` drops the oldest byte, `OVF` clears the flag,
and the rest only answer (`command_cases`). -/
theorem commandsWriteOnlyConsumerState : Obligations.CommandsWriteOnlyConsumerState := by
  intro i s t hi hb h
  rcases command_cases i s t hi h with
    ⟨hbegin, _⟩ | ⟨rfl, _, rfl⟩ | ⟨rfl, rfl⟩ | ⟨_, _, _, d, v, rfl, _⟩
  · exact absurd hbegin hb
  all_goals simp

end Sys2Proof.Machine
end

section
/-! The tick in each state of the sequencer (44_receiver_controller.md R93): `Idle` with and without an
edge, `Sampling` between and on its compare events, `ValidatingFrame` before the stop sample. -/

namespace Sys2Proof.Machine

/-! ### In `Idle` (R70 to R73) -/

/-- Without an edge event the detector does nothing. -/
theorem detectEdge_of_no_event {s : State} {rx : Level} (h : s.edge_en = false ∨ rx = s.rx_prev) :
    detectEdge rx s = s := by
  have hevent : edgeEvent rx s = false := by
    rcases h with h | h <;> simp [edgeEvent, h]
  simp [detectEdge, hevent]

theorem detectEdge_falling {s : State} (hee : s.edge_en = true) (hp : s.rx_prev = true) :
    detectEdge false s = startFrame s := by
  simp [detectEdge, edgeEvent, hee, hp]

/-- Settles O20: the tick is the detector's (`exec_tick_of_idle`), which starts a frame. -/
theorem fallingEdgeStartsFrame : Obligations.FallingEdgeStartsFrame := by
  intro s hidle hee hstop hp
  rw [exec_tick_of_idle false hidle hstop, detectEdge_falling hee hp, trackLine, startFrame]

/-- Settles O22: the tick is the detector's, which sees no event. -/
theorem noEdgeEventNoEffect : Obligations.NoEdgeEventNoEffect := by
  intro s rx hidle hstop hno
  rw [exec_tick_of_idle rx hidle hstop, detectEdge_of_no_event hno, trackLine]

/-! ### In a frame (R75, R76, R91) -/

/-- Outside `Idle` a tick that is no compare event takes one from the timer and follows the line. -/
theorem exec_tick_of_counting {s : State} (rx : Level) (hst : s.state ≠ .idle)
    (hrun : s.tmr_run = true) (h1 : s.tcnt ≠ 1) :
    exec (.tick rx) s = .next { s with tcnt := s.tcnt - 1, rx_prev := rx } := by
  have hhandler : handleEvent false rx { s with tcnt := s.tcnt - 1 } =
      { s with tcnt := s.tcnt - 1 } := by
    cases hc : s.state with
    | idle => exact absurd hc hst
    | sampling => simp [handleEvent]
    | validatingFrame => simp [handleEvent]
  rw [exec, execTick, timerAdvance_count s hrun h1, hhandler, trackLine]

/-- In `Sampling` a compare event takes a data sample, the timer having reloaded. -/
theorem exec_tick_of_sample {s : State} (rx : Level) (hst : s.state = .sampling)
    (hck : s.sr_clk_en = true) (hrun : s.tmr_run = true) (h1 : s.tcnt = 1) :
    exec (.tick rx) s = .next (trackLine rx (shiftIn rx { s with tcnt := s.cfg.bitTicks })) := by
  have hhandler : handleEvent true rx { s with tcnt := s.cfg.bitTicks } =
      shiftIn rx { s with tcnt := s.cfg.bitTicks } := by simp [handleEvent, hst, hck]
  rw [exec, execTick, timerAdvance_compare s hrun h1, hhandler]

theorem shiftIn_more {rx : Level} {s : State} (h : s.bitcnt ≠ 7#4) :
    shiftIn rx s = { s with sr := shiftSample s.sr rx, bitcnt := s.bitcnt + 1#4 } :=
  if_neg (by bv_omega)

theorem shiftIn_eighth {rx : Level} {s : State} (h : s.bitcnt = 7#4) :
    shiftIn rx s = { s with
      sr := shiftSample s.sr rx, bitcnt := 8#4, sr_clk_en := false, tmr_ie := true,
      state := .validatingFrame } := by
  rw [shiftIn, h]; rfl

/-- `{ v[6:0], rx }` as a shift and an or, by trying the 256 bytes. -/
theorem shiftSample_eq_or : ∀ (v : Byte) (rx : Level),
    shiftSample v rx = (v <<< 1) ||| (if rx = true then 1#8 else 0#8) := by
  decide

/-- Settles O23: a count (`exec_tick_of_counting`), or a sample that is not the eighth (`shiftIn_more`) or
is (`shiftIn_eighth`). -/
theorem samplingTick : Obligations.SamplingTick := by
  intro s rx hst hck hrun
  refine ⟨exec_tick_of_counting rx (by simp [hst]) hrun, fun h1 h7 => ?_, fun h1 h7 => ?_⟩
  · rw [exec_tick_of_sample rx hst hck hrun h1,
      shiftIn_more (s := { s with tcnt := s.cfg.bitTicks }) h7, shiftSample_eq_or, trackLine]
  · rw [exec_tick_of_sample rx hst hck hrun h1,
      shiftIn_eighth (s := { s with tcnt := s.cfg.bitTicks }) h7, shiftSample_eq_or, trackLine]

/-- Settles O24: before the stop sample the tick is a count (`exec_tick_of_counting`). -/
theorem validatingTickBeforeStopSample : Obligations.ValidatingTickBeforeStopSample :=
  fun _ rx hst hrun h1 => exec_tick_of_counting rx (by simp [hst]) hrun h1

end Sys2Proof.Machine
end

section
/-! Data: `rev8` and the bitwise operations (95_test_vectors.md section 2), the order of the samples, the
levels of a frame, and the bit-timing calculator. -/

namespace Sys2Proof.Machine

/-! ### `rev8` (43_frame_validator.md R85) -/

/-- Two bytes with the same bits, counted from the other end, are each other's reversals. -/
theorem rev8_eq_of_getLsbD {x y : Byte} (h : ∀ i, i < 8 → x.getLsbD (7 - i) = y.getLsbD i) :
    rev8 x = y :=
  BitVec.eq_of_getLsbD_eq fun i hi => (getLsbD_rev8 x hi).trans (h i hi)

theorem rev8_or (x y : Byte) : rev8 (x ||| y) = rev8 x ||| rev8 y :=
  rev8_eq_of_getLsbD fun i hi => by simp [getLsbD_rev8 _ hi]

theorem rev8_and (x y : Byte) : rev8 (x &&& y) = rev8 x &&& rev8 y :=
  rev8_eq_of_getLsbD fun i hi => by simp [getLsbD_rev8 _ hi]

theorem rev8_xor (x y : Byte) : rev8 (x ^^^ y) = rev8 x ^^^ rev8 y :=
  rev8_eq_of_getLsbD fun i hi => by simp [getLsbD_rev8 _ hi]

theorem rev8_not (x : Byte) : rev8 (~~~x) = ~~~(rev8 x) :=
  rev8_eq_of_getLsbD fun i hi => by
    have h7 : 7 - i < 8 := by omega
    rw [BitVec.getLsbD_not, BitVec.getLsbD_not, getLsbD_rev8 x hi]
    simp only [hi, h7]

/-- The bit that leaves on the left leaves on the right. -/
theorem rev8_shiftLeft (x : Byte) : rev8 (x <<< 1) = rev8 x >>> 1 := by
  refine rev8_eq_of_getLsbD fun i hi => ?_
  rw [BitVec.getLsbD_shiftLeft, BitVec.getLsbD_ushiftRight]
  rcases Nat.lt_or_ge i 7 with h | h
  · have h0 : ¬ 7 - i < 1 := by omega
    have h7 : 7 - i < 8 := by omega
    have hsub : 7 - i - 1 = 7 - (1 + i) := by omega
    simp [h0, h7, hsub, getLsbD_rev8 x (show 1 + i < 8 by omega)]
  · obtain rfl : i = 7 := by omega
    simp

theorem rev8_zero : rev8 0x00#8 = 0x00#8 := rfl

theorem rev8_eq_zero_iff (x : Byte) : rev8 x = 0x00#8 ↔ x = 0x00#8 := by
  conv_lhs => rw [← rev8_zero]
  exact rev8_involutive.injective.eq_iff

/-- Settles O29: each law bit by bit from the closed form (`getLsbD_rev8`); only 0 is sent to 0 because
`rev8` is injective. -/
theorem rev8Algebra : Obligations.Rev8Algebra :=
  ⟨fun x y => ⟨rev8_or x y, rev8_and x y, rev8_xor x y⟩, rev8_not, rev8_shiftLeft,
    rev8_eq_zero_iff, rfl⟩

/-! ### The order of the samples (30_encoding.md R50) -/

theorem getLsbD_shiftSample_zero (v : Byte) (rx : Level) : (shiftSample v rx).getLsbD 0 = rx := by
  simp [shiftSample]

theorem getLsbD_shiftSample_succ (v : Byte) (rx : Level) {i : Nat} (hi : i < 7) :
    (shiftSample v rx).getLsbD (i + 1) = v.getLsbD i := by
  simp [shiftSample, hi]

/-- The latest sample stands at bit 0, and every sample before it one bit higher for each one since. -/
theorem getLsbD_rawOfSamples (ds : List Level) {i : Nat} (hi : i < ds.length) (h8 : i < 8) :
    (rawOfSamples ds).getLsbD i = ds.reverse[i]'(by simpa using hi) := by
  induction ds using List.reverseRecOn generalizing i with
  | nil => exact absurd hi (Nat.not_lt_zero i)
  | append_singleton ds d ih =>
    have hlast : rawOfSamples (ds ++ [d]) = shiftSample (rawOfSamples ds) d := by
      simp [rawOfSamples]
    cases i with
    | zero => rw [hlast, getLsbD_shiftSample_zero]; simp
    | succ i =>
      have hi' : i < ds.length := by simpa using hi
      simp [hlast, getLsbD_shiftSample_succ _ _ (show i < 7 by omega), ih hi' (by omega)]

/-- Settles O30: the last of eight samples stands at bit 0 and the first at bit 7
(`getLsbD_rawOfSamples`); `rev8` turns them round (`getLsbD_rev8`). -/
theorem samplesAssembleInWireOrder : Obligations.SamplesAssembleInWireOrder := by
  intro d i
  have hraw : (rawOfSamples (List.ofFn d)).getLsbD (7 - i) = d i := by
    rw [getLsbD_rawOfSamples _ (by simp only [List.length_ofFn]; omega) (by omega)]
    rw [List.getElem_reverse, List.getElem_ofFn]
    exact congrArg d (Fin.ext (by simp only [List.length_ofFn]; omega))
  exact ⟨hraw, (getLsbD_rev8 _ i.isLt).trans hraw⟩

/-! ### The levels of a frame (30_encoding.md R45, R46) -/

theorem cells_length (stop : Level) (b : Byte) : (cells stop b).length = 10 := rfl

theorem cells_start (stop : Level) (b : Byte) : (cells stop b)[0]? = some false := rfl

theorem cells_data (stop : Level) (b : Byte) {i : Nat} (hi : i < 8) :
    (cells stop b)[i + 1]? = some (b.getLsbD i) := by
  interval_cases i <;> rfl

theorem cells_stop (stop : Level) (b : Byte) : (cells stop b)[9]? = some stop := rfl

/-- Settles O31: every tick of a cell carries the cell's level (`waveform_getElem`). -/
theorem nominalFrameLevels : Obligations.NominalFrameLevels := by
  intro p b
  have htick (j t : Nat) (ht : t < p) : (nominalFrame p b)[j * p + t]? = (cells true b)[j]? :=
    waveform_getElem p (cells true b) j t ht
  refine ⟨waveform_length p (cells true b), fun t ht => ⟨?_, fun i hi => ?_, ?_⟩⟩
  · rw [← cells_start true b, ← htick 0 t ht, Nat.zero_mul, Nat.zero_add]
  · rw [htick (i + 1) t ht, cells_data true b hi]
  · rw [htick 9 t ht, cells_stop]

/-! ### The bit-timing calculator (00_scope.md R5) -/

/-- Rounding to the nearest multiple errs by half a step at most. -/
theorem bitTicksFor_nearest (f : Nat) {b : Nat} (hb : 0 < b) :
    2 * (bitTicksFor f b * b) ≤ 2 * f + b ∧ 2 * f ≤ 2 * (bitTicksFor f b * b) + b := by
  have hdiv := Nat.div_add_mod (f + b / 2) b
  have hmod := Nat.mod_lt (f + b / 2) hb
  rw [Nat.mul_comm] at hdiv
  unfold bitTicksFor
  omega

/-- The calculator's parameters are legal from `P = 2` on: a number is below two to its bit length. -/
theorem configFor_wellFormed {k f b : Nat} (hP : 2 ≤ (configFor k f b).bitTicks) :
    (configFor k f b).wellFormed = true := by
  have hF : 1 ≤ (configFor k f b).firstTicks :=
    (Nat.one_le_of_lt hP).trans (Nat.le_add_right _ _)
  have htw : max (configFor k f b).bitTicks (configFor k f b).firstTicks <
      2 ^ (configFor k f b).tw := Nat.lt_size_self _
  simp [Config.wellFormed, hP, hF, htw]

/-- Settles O32: the nearest period is integer arithmetic, legality is the width's definition, and the
source's figures are computed. -/
theorem calculatorGivesNearestPeriod : Obligations.CalculatorGivesNearestPeriod := by
  refine ⟨fun k f b hb => ?_, by decide, by decide⟩
  obtain ⟨hlow, hhigh⟩ := bitTicksFor_nearest f hb
  exact ⟨hlow, hhigh, rfl, rfl, configFor_wellFormed⟩

end Sys2Proof.Machine
end

section
/-! Ticks in `Idle` (41_start_bit_detector.md R70, R73, 70_reset_and_hazards.md R121, R129): a disarmed
block follows any line, and a block at rest on a level stays exactly as it is. -/

namespace Sys2Proof.Machine

/-- Settles O37: no tick of a disarmed block in `Idle` is an edge event (`noEdgeEventNoEffect`), so each
one only follows the line. -/
theorem deafBeforeBegin : Obligations.DeafBeforeBegin := by
  intro s ls hs hidle hee
  obtain ⟨hstop, -⟩ := hs.idle_facts hidle
  clear hs
  induction ls generalizing s with
  | nil => rfl
  | cons l ls ih =>
    have htick := noEdgeEventNoEffect s l hidle hstop (.inl hee)
    rw [ticks_cons, runEvents_cons _ _ _ _ htick, ih { s with rx_prev := l } hidle hee hstop,
      List.getLastD_cons]

/-- In `Idle` with the line on the level of the tick before, any number of ticks changes nothing. -/
theorem run_idle_level {s : State} {rx : Level} (hidle : s.state = .idle) (hstop : s.tmr_run = false)
    (hp : s.rx_prev = rx) (n : Nat) : runEvents (ticks (List.replicate n rx)) s = .next s := by
  induction n with
  | zero => rfl
  | succ n ih =>
    have htick : exec (.tick rx) s = .next s :=
      (noEdgeEventNoEffect s rx hidle hstop (.inr hp.symm)).trans (by rw [← hp])
    rw [List.replicate_succ, ticks_cons, runEvents_cons _ _ _ _ htick, ih]

end Sys2Proof.Machine
end

section
/-! One frame over any line (44_receiver_controller.md R99, 20_memory.md R34): where the sequencer stands
on each of its ticks, and that its nine samples alone decide what becomes of it. -/

namespace Sys2Proof.Machine

/-! ### Runs keep the invariant and the parameters -/

theorem Inv.run {es : List Instr} {s t : State} (hs : Inv s) (h : runEvents es s = .next t) : Inv t :=
  runEvents_keeps (fun _ _ _ _ hu => hu.exec) hs h

theorem runEvents_cfg {es : List Instr} {s t : State} (h : runEvents es s = .next t) :
    t.cfg = s.cfg :=
  runEvents_keeps (P := fun u => u.cfg = s.cfg) (fun _ _ _ _ hu hv => (exec_cfg hv).trans hu) rfl h

/-! ### The line of a frame -/

/-- The level on the `n`-th tick of a line that begins with the start edge. -/
def lineLevel (ls : List Level) (n : Nat) : Level := (false :: ls).getD n true

theorem lineLevel_eq {ls : List Level} {n : Nat} {l : Level} (h : (false :: ls)[n]? = some l) :
    lineLevel ls n = l := by
  rw [lineLevel, List.getD_eq_getElem?_getD, h, Option.getD_some]

theorem map_lineLevel_range (ls : List Level) {n : Nat} (hn : n ≤ (false :: ls).length) :
    (List.range n).map (lineLevel ls) = (false :: ls).take n := by
  refine List.ext_getElem (by simpa using hn) fun i hi hi' => ?_
  have hlt : i < (false :: ls).length := by simp at hi; omega
  simp only [List.getElem_map, List.getElem_range, List.getElem_take]
  exact lineLevel_eq (List.getElem?_eq_getElem hlt)

/-! ### The timeline -/

/-- A frame's ticks before the validation, from an armed block with the line high. -/
theorem run_frame_of_armed {s : State} {ls : List Level} {n : Nat} (hs : Inv s) (harmed : ArmedIdle s)
    (hp : s.rx_prev = true) (hn : n < s.cfg.firstTicks + 8 * s.cfg.bitTicks) (hlen : n ≤ ls.length) :
    runEvents (ticks ((false :: ls).take (n + 1))) s = .next (frameState s (lineLevel ls) n) := by
  obtain ⟨hidle, hee⟩ := harmed
  obtain ⟨hstop, hie, -⟩ := hs.idle_facts hidle
  obtain ⟨hP, hF, -⟩ := Config.bounds hs.cfg_ok
  rw [← map_lineLevel_range ls (Nat.succ_le_succ hlen)]
  exact run_frame s (lineLevel ls) n rfl hidle hee hp hstop hie (by omega) hF hn

/-- The state before the stop sample: `raw` assembled, one tick left on the timer. -/
def beforeStop (raw : Byte) (prev : Level) (s : State) : State :=
  { s with
    edge_en := false, tmr_run := true, tcnt := 1, sr := raw, bitcnt := 8#4, sr_clk_en := false,
    tmr_ie := true, state := .validatingFrame, rx_prev := prev }

theorem frameState_beforeStop (s : State) (lev : Nat → Level) (hP : 1 ≤ s.cfg.bitTicks) :
    frameState s lev (s.cfg.firstTicks + 8 * s.cfg.bitTicks - 1) =
      beforeStop (rawAfter s.cfg lev 8) (lev (s.cfg.firstTicks + 8 * s.cfg.bitTicks - 1)) s := by
  have hlate : ¬ s.cfg.firstTicks + 8 * s.cfg.bitTicks - 1 <
      s.cfg.firstTicks + 7 * s.cfg.bitTicks := by omega
  have hleft : s.cfg.firstTicks + 8 * s.cfg.bitTicks -
      (s.cfg.firstTicks + 8 * s.cfg.bitTicks - 1) = 1 := by omega
  rw [frameState, if_neg hlate, hleft, beforeStop]

/-- Before the completion event `bitcnt` counts the samples taken, seven at most. -/
theorem samplesBy_le_seven {c : Config} {n : Nat} (hP : 1 ≤ c.bitTicks)
    (hn : n < c.firstTicks + 7 * c.bitTicks) : samplesBy c n ≤ 7 := by
  unfold samplesBy
  split
  · omega
  · have hdiv : (n - c.firstTicks) / c.bitTicks < 7 := (Nat.div_lt_iff_lt_mul hP).mpr (by omega)
    omega

theorem frameState_sampling {s : State} (lev : Nat → Level) {n : Nat} (hP : 1 ≤ s.cfg.bitTicks)
    (hn : n < s.cfg.firstTicks + 7 * s.cfg.bitTicks) :
    (frameState s lev n).state = .sampling ∧
    (frameState s lev n).bitcnt.toNat = samplesBy s.cfg n := by
  have h7 := samplesBy_le_seven hP hn
  rw [frameState, if_pos hn]
  refine ⟨rfl, ?_⟩
  show (BitVec.ofNat 4 (samplesBy s.cfg n)).toNat = _
  rw [BitVec.toNat_ofNat]
  omega

theorem frameState_validating {s : State} (lev : Nat → Level) {n : Nat}
    (hn : s.cfg.firstTicks + 7 * s.cfg.bitTicks ≤ n) :
    (frameState s lev n).state = .validatingFrame ∧ (frameState s lev n).bitcnt = 8#4 := by
  rw [frameState, if_neg (by omega)]
  exact ⟨rfl, rfl⟩

/-- The whole frame: its last tick validates the byte assembled from the eight data samples. -/
theorem run_frame_verdict {s : State} {ls : List Level} (hs : Inv s) (harmed : ArmedIdle s)
    (hp : s.rx_prev = true) (hlen : ls.length = s.cfg.firstTicks + 8 * s.cfg.bitTicks) :
    ∃ prev t, runEvents (ticks (false :: ls)) s = .next t ∧
      Verdict (beforeStop (rawAfter s.cfg (lineLevel ls) 8) prev s)
        (lineLevel ls (s.cfg.firstTicks + 8 * s.cfg.bitTicks)) t := by
  obtain ⟨hP, hF, -⟩ := Config.bounds hs.cfg_ok
  have hsplit : (false :: ls).take (ls.length - 1 + 1) ++ [lineLevel ls ls.length] = false :: ls := by
    rw [← map_lineLevel_range ls (by simp), show ls.length - 1 + 1 = ls.length by omega]
    have hall := map_lineLevel_range ls (n := ls.length + 1) (by simp)
    rw [List.range_succ, List.map_append, List.map_singleton] at hall
    rw [hall]
    exact List.take_of_length_le (by simp)
  have hrun := run_frame_of_armed hs harmed hp (ls := ls) (n := ls.length - 1) (by omega) (by omega)
  obtain ⟨t, ht⟩ := exec_answers (.tick (lineLevel ls ls.length))
    (frameState s (lineLevel ls) (ls.length - 1))
  rw [hlen] at *
  have hval := frameState_validates s (lineLevel ls) (by omega)
  refine ⟨_, t, ?_, frameState_beforeStop s (lineLevel ls) (by omega) ▸ hval.verdict ht⟩
  rw [← hsplit, ticks_append, runEvents_append, hrun]
  exact runEvents_cons _ _ _ _ ht

theorem Verdict.armedIdle {s t : State} {rx : Level} (h : Verdict s rx t) : ArmedIdle t := by
  cases h <;> exact ⟨rfl, rfl⟩

/-- Settles O40: `frameState` is the state on every tick before the last, and the last one is a verdict,
which leaves the block armed in `Idle` and its timer stopped. -/
theorem frameTimeline : Obligations.FrameTimeline := by
  intro s ls hs harmed hp hlen
  obtain ⟨hP, hF, -⟩ := Config.bounds hs.cfg_ok
  rcases Nat.lt_or_eq_of_le hlen with hlt | heq
  · have hrun := run_frame_of_armed hs harmed hp hlt le_rfl
    rw [List.take_of_length_le (by simp)] at hrun
    exact ⟨_, hrun, fun h7 => frameState_sampling _ (by omega) h7,
      fun h7 _ => frameState_validating _ h7, fun h8 => absurd h8 hlt.ne⟩
  · obtain ⟨prev, t, hrun, hverdict⟩ := run_frame_verdict hs harmed hp heq
    obtain ⟨hstop, -, -, htcnt⟩ := (hs.run hrun).idle_facts hverdict.armedIdle.1
    exact ⟨t, hrun, fun h7 => by omega, fun _ h8 => by omega,
      fun _ => ⟨hverdict.armedIdle, hstop, htcnt⟩⟩

/-! ### What becomes of a frame -/

/-- From `s` to `t` a frame of `b` with the given stop level has been received: its byte is queued, or
dropped, or counted as an error, and the block is armed again (43_frame_validator.md R82 to R84, R88). -/
structure Received (b : Byte) (stop : Level) (s t : State) : Prop where
  armed : ArmedIdle t
  rx_prev : t.rx_prev = stop
  stored : stop = true → s.count < s.cfg.cap →
    t.queue = s.queue ++ [b] ∧ t.overflowed = s.overflowed ∧
    t.ferr_cnt = s.ferr_cnt ∧ t.brk_cnt = s.brk_cnt
  dropped : stop = true → s.count = s.cfg.cap →
    t.queue = s.queue ∧ t.overflowed = true ∧ t.ferr_cnt = s.ferr_cnt ∧ t.brk_cnt = s.brk_cnt
  broken : stop = false → b = 0x00#8 →
    t.queue = s.queue ∧ t.overflowed = s.overflowed ∧ t.ferr_cnt = s.ferr_cnt ∧
    t.brk_cnt.toNat = min 255 (s.brk_cnt.toNat + 1)
  misframed : stop = false → b ≠ 0x00#8 →
    t.queue = s.queue ∧ t.overflowed = s.overflowed ∧ t.brk_cnt = s.brk_cnt ∧
    t.ferr_cnt.toNat = min 255 (s.ferr_cnt.toNat + 1)

/-- Storing a byte as a verdict does is a push. -/
theorem queue_rearmed_store {s : State} (b : Byte) (hroom : s.count < s.cfg.cap) :
    State.queue { rearmed true s with
      buf := Memory.write s.buf (pushIndex s) b, count := s.count + 1 } = s.queue ++ [b] := by
  rw [← queue_push b s hroom, push_notFull b s hroom]
  exact queue_congr _ _ rfl rfl rfl rfl

/-- The verdict on the assembled byte is the frame received. -/
theorem Verdict.received {s t : State} {b : Byte} {prev stop : Level}
    (h : Verdict (beforeStop (rev8 b) prev s) stop t) : Received b stop s t := by
  have hqueue : (beforeStop (rev8 b) prev s).queue = s.queue := queue_congr _ _ rfl rfl rfl rfl
  refine ⟨h.armedIdle, ?_, ?_, ?_, ?_, ?_⟩
  · cases h <;> rfl
  · rintro rfl hroom
    cases h with
    | stored hroom' =>
      refine ⟨(queue_rearmed_store _ hroom').trans ?_, rfl, rfl, rfl⟩
      rw [hqueue]
      exact congrArg (fun x => s.queue ++ [x]) (rev8_involutive b)
    | dropped hfull => exact absurd hfull (Nat.not_le.mpr hroom)
  · rintro rfl hfull
    cases h with
    | stored hroom => exact absurd hroom (Nat.not_lt.mpr hfull.ge)
    | dropped => exact ⟨queue_congr _ _ rfl rfl rfl rfl, rfl, rfl, rfl⟩
  · rintro rfl hb
    cases h with
    | broken => exact ⟨queue_congr _ _ rfl rfl rfl rfl, rfl, rfl, satInc8_toNat _⟩
    | misframed hsr => exact absurd ((rev8_eq_zero_iff b).mpr hb) hsr
  · rintro rfl hb
    cases h with
    | broken hsr => exact absurd ((rev8_eq_zero_iff b).mp hsr) hb
    | misframed => exact ⟨queue_congr _ _ rfl rfl rfl rfl, rfl, rfl, satInc8_toNat _⟩

/-- A line on which the nine samples of a frame are the bits of `b` and the stop level. -/
structure Carries (c : Config) (b : Byte) (stop : Level) (ls : List Level) : Prop where
  length : ls.length = c.firstTicks + 8 * c.bitTicks
  data : ∀ i, i < 8 → (false :: ls)[c.firstTicks + i * c.bitTicks]? = some (b.getLsbD i)
  stop : (false :: ls)[c.firstTicks + 8 * c.bitTicks]? = some stop

/-- The nine samples decide the frame, whatever the line does between them. -/
theorem Carries.received {s : State} {b : Byte} {stop : Level} {ls : List Level}
    (hline : Carries s.cfg b stop ls) (hs : Inv s) (harmed : ArmedIdle s) (hp : s.rx_prev = true) :
    ∃ t, runEvents (ticks (false :: ls)) s = .next t ∧ Received b stop s t := by
  obtain ⟨hlen, hdata, hstop⟩ := hline
  obtain ⟨prev, t, hrun, hverdict⟩ := run_frame_verdict hs harmed hp hlen
  have hraw : rawAfter s.cfg (lineLevel ls) 8 = rev8 b :=
    rev8_rawAfter s.cfg (lineLevel ls) b fun i hi => lineLevel_eq (hdata i hi)
  rw [hraw, lineLevel_eq hstop] at hverdict
  exact ⟨t, hrun, hverdict.received⟩

/-- Settles O41: the samples assemble `b` (`rev8_rawAfter`), and the stop sample's verdict on it is one
of the four (`Verdict.received`). -/
theorem nineSamplesDecideFrame : Obligations.NineSamplesDecideFrame := by
  intro s ls b stop hs harmed hp hlen hdata hstop
  obtain ⟨t, hrun, h⟩ := Carries.received ⟨hlen, hdata, hstop⟩ hs harmed hp
  exact ⟨t, hrun, h.armed, h.rx_prev, h.stored, h.dropped, h.broken, h.misframed⟩

end Sys2Proof.Machine
end

section
/-! Lines that carry a frame: the nominal and the bad frame (30_encoding.md R46, R53), a glitch, a line
stuck low, an ideal transmitter; and what the block makes of each. -/

namespace Sys2Proof.Machine

/-! ### Lines of one level after the start edge -/

theorem getElem?_cons_replicate {α : Type} (a x : α) {n k : Nat} (h1 : 1 ≤ k) (hk : k ≤ n) :
    (a :: List.replicate n x)[k]? = some x := by
  obtain ⟨j, rfl⟩ := Nat.exists_eq_add_of_le' h1
  rw [List.getElem?_cons_succ, List.getElem?_replicate, if_pos (by omega)]

/-- A start edge and then one level throughout carries the byte all of whose bits are that level. -/
theorem carries_replicate {c : Config} {b : Byte} {l : Level} (hF : 1 ≤ c.firstTicks)
    (hb : ∀ i, i < 8 → b.getLsbD i = l) :
    Carries c b l (List.replicate (c.firstTicks + 8 * c.bitTicks) l) where
  length := List.length_replicate
  data i hi := by
    have hle := Nat.mul_le_mul_right c.bitTicks (show i ≤ 8 by omega)
    rw [getElem?_cons_replicate _ _ (by omega) (by omega), hb i hi]
  stop := getElem?_cons_replicate _ _ (by omega) le_rfl

/-- Settles O44: after its one low tick the line carries eight high bits and a high stop sample. -/
theorem oneTickGlitchReadsFF : Obligations.OneTickGlitchReadsFF := by
  intro s hs harmed hp hroom
  obtain ⟨-, hF, -⟩ := Config.bounds hs.cfg_ok
  have hones : ∀ i, i < 8 → (0xFF#8).getLsbD i = true := by decide
  obtain ⟨t, hrun, h⟩ := (carries_replicate hF hones).received hs harmed hp
  obtain ⟨hqueue, -⟩ := h.stored rfl hroom
  exact ⟨t, hrun, h.armed, hqueue⟩

/-- Settles O45: on a level already seen nothing happens (`run_idle_level`); a line that has gone low
carries a frame of eight low bits and a low stop sample, after which it is a level already seen. -/
theorem stuckLowLineIsSilent : Obligations.StuckLowLineIsSilent := by
  refine ⟨fun s n hs harmed hp => run_idle_level harmed.1 (hs.idle_facts harmed.1).1 hp n,
    fun s n hs harmed hp hn => ?_⟩
  obtain ⟨-, hF, -⟩ := Config.bounds hs.cfg_ok
  have hzeros : ∀ i, i < 8 → (0x00#8).getLsbD i = false := by decide
  obtain ⟨t, hrun, h⟩ := (carries_replicate hF hzeros).received hs harmed hp
  obtain ⟨m, rfl⟩ := Nat.exists_eq_add_of_le (Nat.succ_le_of_lt hn)
  have hrest := run_idle_level h.armed.1 ((hs.run hrun).idle_facts h.armed.1).1 h.rx_prev m
  refine ⟨t, ?_, h.armed, h.broken rfl rfl⟩
  rw [List.replicate_add, List.replicate_succ, ticks_append, runEvents_append, hrun]
  exact hrest

/-! ### An ideal transmitter (70_reset_and_hazards.md R125) -/

theorem getD_cells_data (stop : Level) (b : Byte) {i : Nat} (hi : i < 8) :
    (cells stop b).getD (i + 1) true = b.getLsbD i := by
  rw [List.getD_eq_getElem?_getD, cells_data stop b hi, Option.getD_some]

/-- A tick in cell `k + 1` reads that cell. -/
theorem IdealLine.level_eq {T e : ℚ} {b : Byte} {level : Nat → Level} (h : IdealLine T e b level)
    {n k : Nat} (hk : k ≤ 8) (hlow : e + (k + 1) * T ≤ n) (hhigh : (n : ℚ) < e + (k + 2) * T) :
    level n = (cells true b).getD (k + 1) true := by
  refine h n (k + 1) (by omega) ?_ ?_
  · rw [Nat.cast_succ]
    exact hlow
  · rw [Nat.cast_succ, add_assoc, one_add_one_eq_two]
    exact hhigh

/-- A start edge in `(-T, 0]` is seen on tick 0. -/
theorem IdealLine.level_zero {T e : ℚ} {b : Byte} {level : Nat → Level} (h : IdealLine T e b level)
    (he : e ≤ 0) (hT : 0 < e + T) : level 0 = false := by
  refine h 0 0 (by omega) ?_ ?_
  · simpa using he
  · simpa using hT

/-- A line that starts low and whose nine samples read their cells carries the byte. -/
theorem carries_of_samples {c : Config} {b : Byte} {level : Nat → Level} (h0 : level 0 = false)
    (hsample : ∀ k, k ≤ 8 →
      level (c.firstTicks + k * c.bitTicks) = (cells true b).getD (k + 1) true) :
    ∃ ls, Carries c b true ls ∧
      (List.range (c.firstTicks + 8 * c.bitTicks + 1)).map level = false :: ls := by
  let ls := (List.range (c.firstTicks + 8 * c.bitTicks)).map fun n => level (n + 1)
  have hmap : (List.range (c.firstTicks + 8 * c.bitTicks + 1)).map level = false :: ls := by
    rw [List.range_succ_eq_map, List.map_cons, List.map_map, h0]
    rfl
  have hget (k : Nat) (hk : k ≤ 8) :
      (false :: ls)[c.firstTicks + k * c.bitTicks]? = some ((cells true b).getD (k + 1) true) := by
    have hle := Nat.mul_le_mul_right c.bitTicks hk
    rw [← hmap, List.getElem?_map, List.getElem?_range (by omega), Option.map_some, hsample k hk]
  refine ⟨ls, ⟨?_, fun i hi => ?_, hget 8 le_rfl⟩, hmap⟩
  · rw [List.length_map, List.length_range]
  · rw [hget i (by omega), getD_cells_data true b hi]

/-- Settles O46: the samples' own cells make `T` longer than a tick, so that the start edge is seen on
tick 0; each sample reads its cell, and the line carries the byte. -/
theorem samplesInOwnCellsReceiveByte : Obligations.SamplesInOwnCellsReceiveByte := by
  intro s b T e level hs harmed hp hroom he1 he0 hline hcells
  obtain ⟨hP, hF, -⟩ := Config.bounds hs.cfg_ok
  have hT : 1 < T := by
    obtain ⟨-, hhigh⟩ := hcells 8 le_rfl
    have hlong : ((17 : Nat) : ℚ) ≤ ((s.cfg.firstTicks + 8 * s.cfg.bitTicks : Nat) : ℚ) :=
      Nat.cast_le.mpr (by omega)
    push_cast at hhigh hlong
    linarith
  obtain ⟨ls, hcarries, hmap⟩ := carries_of_samples (hline.level_zero he0 (by linarith))
    fun k hk => hline.level_eq hk (hcells k hk).1 (hcells k hk).2
  obtain ⟨t, hrun, h⟩ := hcarries.received hs harmed hp
  obtain ⟨hqueue, -⟩ := h.stored rfl hroom
  exact ⟨t, hmap ▸ hrun, h.armed, hqueue⟩

/-! ### Nominal and bad frames -/

/-- Sample `j` of a frame is taken in the cell after the one its number names, while `P ≤ F < 2P`. -/
theorem waveform_sample {c : Config} (hle : c.bitTicks ≤ c.firstTicks)
    (hlt : c.firstTicks < 2 * c.bitTicks) (cs : List Level) (j : Nat) :
    (waveform c.bitTicks cs)[c.firstTicks + j * c.bitTicks]? = cs[j + 1]? := by
  rw [← waveform_getElem c.bitTicks cs (j + 1) (c.firstTicks - c.bitTicks) (by omega), Nat.succ_mul]
  congr 1
  omega

/-- What is left of the stop cell after the stop sample. -/
theorem drop_waveform_cells {c : Config} (hle : c.bitTicks ≤ c.firstTicks)
    (hlt : c.firstTicks < 2 * c.bitTicks) (stop : Level) (b : Byte) :
    (waveform c.bitTicks (cells stop b)).drop (c.firstTicks + 8 * c.bitTicks + 1) =
      List.replicate (2 * c.bitTicks - 1 - c.firstTicks) stop := by
  have hlen := waveform_length c.bitTicks (cells stop b)
  rw [cells_length] at hlen
  refine List.ext_getElem (by simp; omega) fun n hn hn' => ?_
  rw [List.length_replicate] at hn'
  rw [List.getElem_replicate, ← Option.some_inj, ← List.getElem?_eq_getElem, List.getElem?_drop,
    ← cells_stop stop b,
    ← waveform_getElem c.bitTicks (cells stop b) 9 (c.firstTicks - c.bitTicks + 1 + n) (by omega)]
  congr 1
  omega

/-- A frame of ten whole cells carries its byte and its stop level, and the rest of the stop cell is
left over. -/
theorem exists_carries_waveform {c : Config} (hP : 1 ≤ c.bitTicks) (hle : c.bitTicks ≤ c.firstTicks)
    (hlt : c.firstTicks < 2 * c.bitTicks) (stop : Level) (b : Byte) :
    ∃ ls, Carries c b stop ls ∧ waveform c.bitTicks (cells stop b) =
      (false :: ls) ++ List.replicate (2 * c.bitTicks - 1 - c.firstTicks) stop := by
  obtain ⟨p, hp⟩ := Nat.exists_eq_add_of_le' hP
  have hlen := waveform_length c.bitTicks (cells stop b)
  rw [cells_length] at hlen
  obtain ⟨ws, hws⟩ : ∃ ws, waveform c.bitTicks (cells stop b) = false :: ws := by
    rw [cells, waveform_cons, hp, List.replicate_succ]
    exact ⟨_, rfl⟩
  let n := c.firstTicks + 8 * c.bitTicks
  have htake : (waveform c.bitTicks (cells stop b)).take (n + 1) = false :: ws.take n := by
    rw [hws, List.take_succ_cons]
  have hget (j : Nat) (hj : j ≤ 8) :
      (false :: ws.take n)[c.firstTicks + j * c.bitTicks]? = (cells stop b)[j + 1]? := by
    have hmul := Nat.mul_le_mul_right c.bitTicks hj
    rw [← htake, List.getElem?_take_of_lt (by omega), waveform_sample hle hlt]
  refine ⟨ws.take n, ⟨?_, fun i hi => ?_, ?_⟩, ?_⟩
  · have hlen' := congrArg List.length htake
    rw [List.length_take, hlen, List.length_cons] at hlen'
    omega
  · rw [hget i (by omega), cells_data stop b hi]
  · rw [hget 8 le_rfl, cells_stop]
  · rw [← drop_waveform_cells hle hlt stop b, ← htake, List.take_append_drop]

/-- A frame of ten whole cells is received. -/
theorem run_waveform {s : State} (hs : Inv s) (harmed : ArmedIdle s) (hp : s.rx_prev = true)
    (hle : s.cfg.bitTicks ≤ s.cfg.firstTicks) (hlt : s.cfg.firstTicks < 2 * s.cfg.bitTicks)
    (stop : Level) (b : Byte) :
    ∃ t, runEvents (ticks (waveform s.cfg.bitTicks (cells stop b))) s = .next t ∧
      Received b stop s t := by
  obtain ⟨hP, -, -⟩ := Config.bounds hs.cfg_ok
  obtain ⟨ls, hcarries, hline⟩ := exists_carries_waveform (by omega) hle hlt stop b
  obtain ⟨t, hrun, h⟩ := hcarries.received hs harmed hp
  refine ⟨t, ?_, h⟩
  rw [hline, ticks_append, runEvents_append, hrun]
  exact run_idle_level h.armed.1 ((hs.run hrun).idle_facts h.armed.1).1 h.rx_prev _

/-- A good frame's byte is queued while there is room, and the flag tells when there was none. -/
theorem Received.good {s t : State} {b : Byte} (h : Received b true s t)
    (hcap : s.count ≤ s.cfg.cap) :
    t.queue = (s.queue ++ [b]).take s.cfg.cap ∧
    (t.overflowed = true ↔ s.overflowed = true ∨ s.cfg.cap < s.count + 1) ∧
    t.ferr_cnt = s.ferr_cnt ∧ t.brk_cnt = s.brk_cnt := by
  rcases Nat.lt_or_eq_of_le hcap with hroom | hfull
  · obtain ⟨hqueue, hflag, hferr, hbrk⟩ := h.stored rfl hroom
    refine ⟨?_, ?_, hferr, hbrk⟩
    · rw [hqueue, List.take_of_length_le (by simpa using hroom)]
    · simp [hflag, Nat.not_lt.mpr hroom]
  · obtain ⟨hqueue, hflag, hferr, hbrk⟩ := h.dropped rfl hfull
    refine ⟨?_, ?_, hferr, hbrk⟩
    · rw [hqueue, ← hfull, ← queue_length, List.take_left]
    · simp [hflag, hfull]

/-- Keeping the oldest `n` of some, and then of more, is keeping the oldest `n` of all. -/
theorem take_take_append {α : Type} (n : Nat) (l m : List α) :
    (l.take n ++ m).take n = (l ++ m).take n := by
  rcases Nat.le_total l.length n with h | h
  · rw [List.take_of_length_le h]
  · rw [List.take_append_of_le_length h, List.take_append_of_le_length (by simp [h]), List.take_take,
      min_self]

/-- Settles O39: frame by frame (`run_waveform`), each of which leaves the block as it found it, armed
with the line high. -/
theorem nominalFramesKeepOldest : Obligations.NominalFramesKeepOldest := by
  intro s bs hs harmed hp hle hlt
  induction bs generalizing s with
  | nil =>
    have hcap : s.queue.length ≤ s.cfg.cap := (queue_length s).le.trans hs.spec.item1
    refine ⟨s, rfl, harmed, hp, ?_, ?_, rfl, rfl⟩
    · rw [List.append_nil, List.take_of_length_le hcap]
    · simp [hs.spec.item1]
  | cons b bs ih =>
    obtain ⟨t, hrun, h⟩ := run_waveform hs harmed hp hle hlt true b
    obtain ⟨hqueue, hflag, hferr, hbrk⟩ := h.good hs.spec.item1
    have hcfg := runEvents_cfg hrun
    have hcount : t.count = min s.cfg.cap (s.count + 1) := by
      rw [← queue_length, hqueue, List.length_take, List.length_append, queue_length]; rfl
    obtain ⟨u, hrun', harmed', hp', hqueue', hflag', hferr', hbrk'⟩ :=
      ih t (hs.run hrun) h.armed h.rx_prev (hcfg ▸ hle) (hcfg ▸ hlt)
    rw [hcfg] at hrun' hqueue' hflag'
    refine ⟨u, ?_, harmed', hp', ?_, ?_, hferr'.trans hferr, hbrk'.trans hbrk⟩
    · rw [List.flatMap_cons, ticks_append, runEvents_append]
      exact (congrArg (andThen · _) hrun).trans hrun'
    · rw [hqueue', hqueue, take_take_append, List.append_assoc, List.singleton_append]
    · rw [hflag', hflag, hcount, List.length_cons, or_assoc]
      refine or_congr_right ?_
      omega

/-- Settles O43: the bad frame is received with a low stop sample, the high tick after it is no edge that
counts (`risingEdgeIgnored`), and the next frame finds the block armed with the line high. -/
theorem badFrameCountedThenRecovered : Obligations.BadFrameCountedThenRecovered := by
  intro s b b' hs harmed hp hle hlt
  obtain ⟨t, hrun, h⟩ := run_waveform hs harmed hp hle hlt false b
  have hcfg := runEvents_cfg hrun
  have ht := hs.run hrun
  have htick := risingEdgeIgnored t h.armed.1 h.armed.2 (ht.idle_facts h.armed.1).1 h.rx_prev
  obtain ⟨u, hrun', h'⟩ := run_waveform (ht.trackLine true) h.armed rfl (hcfg ▸ hle) (hcfg ▸ hlt)
    true b'
  obtain ⟨hqueue', -⟩ := h'.good ht.spec.item1
  have hnext : runEvents (ticks (true :: nominalFrame s.cfg.bitTicks b')) t = .next u := by
    rw [ticks_cons, runEvents_cons _ _ _ _ htick, ← hcfg]
    exact hrun'
  have hframe : t.queue = s.queue ∧ t.overflowed = s.overflowed ∧
      t.brk_cnt.toNat = (if b = 0x00#8 then min 255 (s.brk_cnt.toNat + 1) else s.brk_cnt.toNat) ∧
      t.ferr_cnt.toNat =
        (if b = 0x00#8 then s.ferr_cnt.toNat else min 255 (s.ferr_cnt.toNat + 1)) := by
    by_cases hb : b = 0x00#8
    · obtain ⟨hqueue, hflag, hferr, hbrk⟩ := h.broken rfl hb
      simp [hqueue, hflag, hferr, hbrk, hb]
    · obtain ⟨hqueue, hflag, hbrk, hferr⟩ := h.misframed rfl hb
      simp [hqueue, hflag, hferr, hbrk, hb]
  obtain ⟨hqueue, hflag, hbrk, hferr⟩ := hframe
  refine ⟨t, u, hrun, h.armed, h.rx_prev, hqueue, hflag, hbrk, hferr, hnext, h'.armed, ?_⟩
  rw [hqueue', queue_trackLine, hqueue, trackLine_cfg, hcfg]

end Sys2Proof.Machine
end

section
/-! The queue over a run (20_memory.md R42): what each event adds and takes, and `READ`, `OVF` and `BEGIN`
on the edge of a validation (60_exceptions.md R103). -/

namespace Sys2Proof.Machine

/-! ### READ on a queue that is not empty (40_byte_queue.md R62) -/

theorem slotIndex_zero {s : State} (h : s.head < s.cfg.cap) : slotIndex s 0 = s.head :=
  Nat.mod_eq_of_lt h

theorem count_ne_zero_of_queue_cons {s : State} {b : Byte} {bs : List Byte}
    (h : s.queue = b :: bs) : s.count ≠ 0 := by
  rw [count_of_queue_cons s b bs h]
  exact Nat.succ_ne_zero _

theorem memRead_head_of_queue_cons {s : State} {b : Byte} {bs : List Byte}
    (hhead : s.head < s.cfg.cap) (h : s.queue = b :: bs) :
    memRead s s.head = b ∧ (dropOldest s).queue = bs := by
  have hsplit := queue_dropOldest s hhead (count_ne_zero_of_queue_cons h)
  rw [h] at hsplit
  obtain ⟨hb, hbs⟩ := List.cons.inj hsplit
  exact ⟨hb.symm, hbs.symm⟩

/-- `READ` answers the first byte of the queue and drops it. -/
theorem exec_read_of_queue_cons {s : State} {b : Byte} {bs : List Byte}
    (hhead : s.head < s.cfg.cap) (h : s.queue = b :: bs) :
    exec .read s = .next (respond b.toNat true (dropOldest s)) := by
  rw [exec_read_nonempty s (count_ne_zero_of_queue_cons h), (memRead_head_of_queue_cons hhead h).1]

/-- Settles O15: the first byte stands at `head` (`memRead_head_of_queue_cons`), and the invariant says
that the slot of a live byte is a written one. -/
theorem readAnswersFirstOfQueue : Obligations.ReadAnswersFirstOfQueue := by
  intro s b bs hs h
  have hhead := hs.queue.head_lt
  obtain ⟨hread, hrest⟩ := memRead_head_of_queue_cons hhead h
  obtain ⟨c, hc⟩ := hs.queue.live 0 (Nat.pos_of_ne_zero (count_ne_zero_of_queue_cons h))
  rw [slotIndex_zero hhead] at hc
  obtain rfl : c = b := (memRead_eq_of_read hc).symm.trans hread
  exact ⟨hc, _, exec_read_of_queue_cons hhead h, rfl, (queue_respond _ _ _).trans hrest⟩

/-! ### What one event adds and takes -/

theorem pushedBy_of_stores {rx : Level} {s : State} (h : Stores rx s) :
    pushedBy (.tick rx) s = some (rev8 s.sr) := by
  obtain ⟨⟨hst, hie, hrun, h1⟩, rfl, hroom⟩ := h
  exact if_pos ⟨hst, hie, hrun, h1, hroom⟩

theorem pushedBy_of_not_stores {rx : Level} {s : State} (h : ¬ Stores rx s) :
    pushedBy (.tick rx) s = none := by
  cases rx with
  | false => rfl
  | true => exact if_neg fun ⟨hst, hie, hrun, h1, hroom⟩ => h ⟨⟨hst, hie, hrun, h1⟩, rfl, hroom⟩

theorem pushedBy_command {i : Instr} (s : State) (hi : ∀ rx, i ≠ .tick rx) : pushedBy i s = none := by
  cases i with
  | tick rx => exact absurd rfl (hi rx)
  | _ => rfl

/-- A tick appends the byte it pushes, if any. -/
theorem tick_queue {rx : Level} {s t : State} (h : exec (.tick rx) s = .next t) :
    t.queue = s.queue ++ (pushedBy (.tick rx) s).toList := by
  by_cases hst : Stores rx s
  · obtain ⟨hcount, hbuf⟩ := tick_stores hst h
    have ⟨_, _, hroom⟩ := hst
    rw [pushedBy_of_stores hst, Option.toList_some, ← queue_push (rev8 s.sr) s hroom,
      push_notFull _ s hroom]
    exact queue_congr _ _ (tick_head h :) hcount hbuf (exec_cfg h :)
  · obtain ⟨hcount, hbuf⟩ := tick_queue_kept hst h
    rw [pushedBy_of_not_stores hst, Option.toList_none, List.append_nil]
    exact queue_congr _ _ (tick_head h) hcount hbuf (exec_cfg h)

/-- A command other than `BEGIN` takes from the front the byte it returns, if any. -/
theorem command_queue {i : Instr} {s t : State} (hs : Inv s) (hi : ∀ rx, i ≠ .tick rx)
    (hb : i ≠ .begin) (h : exec i s = .next t) : s.queue = (readBy i s).toList ++ t.queue := by
  rcases command_cases i s t hi h with
    ⟨hbegin, _⟩ | ⟨rfl, hc, rfl⟩ | ⟨rfl, rfl⟩ | ⟨_, _, hread, d, v, rfl, _⟩
  · exact absurd hbegin hb
  · rw [queue_respond, queue_dropOldest s hs.queue.head_lt hc, readBy, if_neg hc]
    rfl
  · exact queue_congr _ _ rfl rfl rfl rfl
  · have hnone : readBy i s = none := by
      cases i with
      | read => exact if_pos (hread rfl)
      | _ => rfl
    rw [hnone, queue_respond, Option.toList_none, List.nil_append]

/-- One event of the FIFO law. -/
theorem exec_queue {i : Instr} {s t : State} (hs : Inv s) (hb : i ≠ .begin)
    (h : exec i s = .next t) :
    s.queue ++ (pushedBy i s).toList = (readBy i s).toList ++ t.queue := by
  by_cases htick : ∃ rx, i = .tick rx
  · obtain ⟨rx, rfl⟩ := htick
    exact (tick_queue h).symm
  · have hi : ∀ rx, i ≠ .tick rx := fun rx e => htick ⟨rx, e⟩
    rw [pushedBy_command s hi, Option.toList_none, List.append_nil, command_queue hs hi hb h]

/-! ### A run -/

theorem pushes_cons {i : Instr} {s t : State} (es : List Instr) (h : exec i s = .next t) :
    pushes (i :: es) s = (pushedBy i s).toList ++ pushes es t := by
  rw [pushes, h]

theorem reads_cons {i : Instr} {s t : State} (es : List Instr) (h : exec i s = .next t) :
    reads (i :: es) s = (readBy i s).toList ++ reads es t := by
  rw [reads, h]

/-- From any queue: what was there and what was pushed is what was read and what is there. -/
theorem runEvents_queue {es : List Instr} {s u : State} (hs : Inv s) (hb : Instr.begin ∉ es)
    (h : runEvents es s = .next u) : s.queue ++ pushes es s = reads es s ++ u.queue := by
  induction es generalizing s with
  | nil =>
    obtain rfl := Host.Outcome.next.inj h
    exact List.append_nil _
  | cons i es ih =>
    obtain ⟨hi, hes⟩ := List.ne_and_not_mem_of_not_mem_cons hb
    obtain ⟨t, ht, hrun⟩ := runEvents_cons_eq_next.mp h
    calc s.queue ++ pushes (i :: es) s
        = (s.queue ++ (pushedBy i s).toList) ++ pushes es t := by
          rw [pushes_cons es ht, List.append_assoc]
      _ = (readBy i s).toList ++ (t.queue ++ pushes es t) := by
          rw [exec_queue hs hi.symm ht, List.append_assoc]
      _ = reads (i :: es) s ++ u.queue := by
          rw [ih (hs.exec ht) hes hrun, reads_cons es ht, List.append_assoc]

/-- Settles O38: `BEGIN` leaves an empty queue, from which `runEvents_queue` is the law; the two counts
are the lengths of its sides. -/
theorem queueIsFifo : Obligations.QueueIsFifo := by
  intro s t u es hs hbegin hb hrun
  have hinv := hs.exec hbegin
  obtain rfl := Host.Outcome.next.inj hbegin
  have hlaw := runEvents_queue hinv hb hrun
  rw [queue_respond, queue_beginReception, List.nil_append] at hlaw
  have hlen := congrArg List.length hlaw
  rw [List.length_append, queue_length] at hlen
  exact ⟨hlaw, by omega, by omega⟩

/-! ### A command on the edge of a validation -/

theorem step_edge_answers {s u t : State} {rx : Level} {c : CmdWord} {i : Instr} {rest : List Input}
    (hin : s.input = .edge false rx c :: rest) (hc : decodeCmd c = .ok i)
    (hcmd : exec i { s with input := rest } = .next u) (htick : exec (.tick rx) u = .next t) :
    step s = .next t := by
  rw [step_edge_command hin hc, hcmd]
  exact htick

/-- A good frame is stored while there is room. -/
theorem Verdict.of_room {s t : State} (h : Verdict s true t) (hroom : s.count < s.cfg.cap) :
    t.queue = s.queue ++ [rev8 s.sr] ∧ t.overflowed = s.overflowed := by
  cases h with
  | stored => exact ⟨queue_rearmed_store _ hroom, rfl⟩
  | dropped hfull => exact absurd hfull (Nat.not_le.mpr hroom)

/-- A good frame is dropped when the queue is full, and the flag says so. -/
theorem Verdict.of_full {s t : State} (h : Verdict s true t) (hfull : s.cfg.cap ≤ s.count) :
    t.queue = s.queue ∧ t.overflowed = true := by
  cases h with
  | stored hroom => exact absurd hfull (Nat.not_le.mpr hroom)
  | dropped => exact ⟨queue_congr _ _ rfl rfl rfl rfl, rfl⟩

/-- Settles O47: `READ` makes room for the byte (`Verdict.of_room`), `OVF` clears the flag before the
verdict sets it (`Verdict.of_full`), and after `BEGIN` the tick is one in `Idle` on a high level, which
does nothing. -/
theorem commandOnValidationEdge : Obligations.CommandOnValidationEdge := by
  intro s rest b bs hs hval hfull hqueue
  refine ⟨fun hin => ?_, fun hin => ?_, fun hin => ?_⟩
  · let s' : State := { s with input := rest }
    have hhead : s'.head < s'.cfg.cap := hs.queue.head_lt
    have hqueue' : s'.queue = b :: bs := (queue_congr s s' rfl rfl rfl rfl).trans hqueue
    have hcmd := exec_read_of_queue_cons hhead hqueue'
    obtain ⟨t, ht⟩ := exec_answers (.tick true) (respond b.toNat true (dropOldest s'))
    have hroom : s.count - 1 < s.cfg.cap := by
      have hcap := Config.cap_pos s.cfg
      omega
    obtain ⟨hq, hflag⟩ := (Validates.verdict (s := respond b.toNat true (dropOldest s'))
      hval ht).of_room hroom
    rw [queue_respond, (memRead_head_of_queue_cons hhead hqueue').2] at hq
    exact ⟨t, step_edge_answers hin rfl hcmd ht, tick_resp ht, hq, hflag⟩
  · let u : State := respond s.overflowed.toNat true (clearOverflowed { s with input := rest })
    obtain ⟨t, ht⟩ := exec_answers (.tick true) u
    obtain ⟨hq, hflag⟩ := (Validates.verdict (s := u) hval ht).of_full hfull.ge
    have hqueue' : u.queue = s.queue := queue_congr _ _ rfl rfl rfl rfl
    exact ⟨t, step_edge_answers hin rfl (exec_ovf _) ht, tick_resp ht,
      hq.trans (hqueue'.trans hqueue), hflag⟩
  · let u : State := respond 0 false (beginReception { s with input := rest })
    have ht : exec (.tick true) u = .next (trackLine true u) := by
      rw [exec_tick_of_idle true rfl rfl, detectEdge_high]
    exact ⟨_, step_edge_answers hin rfl (exec_begin _) ht, ⟨rfl, rfl⟩, by simp [u], rfl, rfl, rfl⟩

end Sys2Proof.Machine
end

section
/-! The two contexts (60_exceptions.md R112): the consumer's answers do not depend on the receiver's own
state, and the receiver's own state does not depend on the consumer's commands. -/

namespace Sys2Proof.Machine

/-! ### What the consumer reads -/

theorem SameForConsumer.dropOldest {s t : State} (h : SameForConsumer s t) :
    SameForConsumer (dropOldest s) (dropOldest t) :=
  { h with
    head := by simp only [dropOldest_head, h.head, h.cfg]
    count := by simp only [dropOldest_count, h.count] }

theorem SameForConsumer.clearOverflowed {s t : State} (h : SameForConsumer s t) :
    SameForConsumer (clearOverflowed s) (clearOverflowed t) :=
  { h with overflowed := rfl }

theorem SameForConsumer.beginReception {s t : State} (h : SameForConsumer s t) :
    SameForConsumer (beginReception s) (beginReception t) :=
  { h with head := rfl, count := rfl, overflowed := rfl, ferr := rfl, brk := rfl }

/-- Two states that answer the same number, and agree on what they update, agree after it. -/
theorem SameForConsumer.answered {i : Instr} {s t u w : State} {d d' : Nat} {v : Bool}
    (h : SameForConsumer u w) (hd : d = d') (hs : exec i s = .next (respond d v u))
    (ht : exec i t = .next (respond d' v w)) :
    ∃ s' t', exec i s = .next s' ∧ exec i t = .next t' ∧ s'.resp = t'.resp ∧
      SameForConsumer s' t' :=
  ⟨_, _, hs, ht, by simp [hd], { h with }⟩

/-- A command gets the same answer in both states, and they still agree after it. -/
theorem SameForConsumer.command {i : Instr} {s t : State} (h : SameForConsumer s t)
    (hi : ∀ rx, i ≠ .tick rx) :
    ∃ s' t', exec i s = .next s' ∧ exec i t = .next t' ∧ s'.resp = t'.resp ∧
      SameForConsumer s' t' := by
  cases i with
  | tick rx => exact absurd rfl (hi rx)
  | nop => exact h.answered rfl (exec_nop s) (exec_nop t)
  | begin => exact h.beginReception.answered rfl (exec_begin s) (exec_begin t)
  | avail => exact h.answered h.count (exec_avail s) (exec_avail t)
  | read =>
    by_cases hc : s.count = 0
    · exact h.answered rfl (exec_read_empty s hc) (exec_read_empty t (h.count ▸ hc))
    · have hbyte : memRead s s.head = memRead t t.head := by rw [h.slots, h.head]
      exact h.dropOldest.answered (congrArg BitVec.toNat hbyte) (exec_read_nonempty s hc)
        (exec_read_nonempty t (h.count ▸ hc))
  | ovf =>
    exact h.clearOverflowed.answered (congrArg Bool.toNat h.overflowed) (exec_ovf s) (exec_ovf t)
  | ferrc => exact h.answered (congrArg BitVec.toNat h.ferr) (exec_ferrc s) (exec_ferrc t)
  | brkc => exact h.answered (congrArg BitVec.toNat h.brk) (exec_brkc s) (exec_brkc t)

theorem answers_cons {i : Instr} {s t : State} (es : List Instr) (h : exec i s = .next t) :
    answers (i :: es) s = t.resp :: answers es t := by
  rw [answers, h]

/-- Settles O48: command by command (`SameForConsumer.command`). -/
theorem answersHideReceiverState : Obligations.AnswersHideReceiverState := by
  intro es s t h hes
  induction es generalizing s t with
  | nil => rfl
  | cons i es ih =>
    have hi : ∀ rx, i ≠ .tick rx := fun rx e => hes rx (e ▸ .head es)
    obtain ⟨s', t', hs, ht, hresp, hsame⟩ := h.command hi
    rw [answers_cons es hs, answers_cons es ht, hresp,
      ih s' t' hsame fun rx hmem => hes rx (.tail i hmem)]

/-! ### The receiver's own state -/

theorem SameForReceiver.timerAdvance {s t : State} (h : SameForReceiver s t) :
    (timerAdvance s).1 = (timerAdvance t).1 ∧
    SameForReceiver (timerAdvance s).2 (timerAdvance t).2 := by
  cases hrun : s.tmr_run with
  | false =>
    rw [timerAdvance_stopped s hrun, timerAdvance_stopped t (h.tmr_run ▸ hrun)]
    exact ⟨rfl, h⟩
  | true =>
    by_cases h1 : s.tcnt = 1
    · rw [timerAdvance_compare s hrun h1,
        timerAdvance_compare t (h.tmr_run ▸ hrun) (h.tcnt ▸ h1)]
      exact ⟨rfl, { h with tcnt := h.bitTicks }⟩
    · rw [timerAdvance_count s hrun h1, timerAdvance_count t (h.tmr_run ▸ hrun) (h.tcnt ▸ h1)]
      exact ⟨rfl, { h with tcnt := congrArg (· - 1) h.tcnt }⟩

theorem SameForReceiver.startFrame {s t : State} (h : SameForReceiver s t) :
    SameForReceiver (startFrame s) (startFrame t) :=
  { h with
    state := rfl, sr := rfl, bitcnt := rfl, edge_en := rfl, sr_clk_en := rfl, tmr_run := rfl
    tcnt := h.firstTicks }

theorem SameForReceiver.detectEdge {s t : State} (h : SameForReceiver s t) (rx : Level) :
    SameForReceiver (detectEdge rx s) (detectEdge rx t) := by
  cases rx with
  | true => simpa using h
  | false =>
    have hevent : edgeEvent false t = edgeEvent false s := by
      simp only [edgeEvent, h.edge_en, h.rx_prev]
    unfold Machine.detectEdge
    rw [hevent]
    split
    · exact h.startFrame
    · exact h

theorem SameForReceiver.shiftIn {s t : State} (h : SameForReceiver s t) (rx : Level) :
    SameForReceiver (shiftIn rx s) (shiftIn rx t) := by
  have hsr : shiftSample s.sr rx = shiftSample t.sr rx := by rw [h.sr]
  have hbit : s.bitcnt + 1#4 = t.bitcnt + 1#4 := by rw [h.bitcnt]
  unfold Machine.shiftIn
  rw [← hbit]
  split
  · exact { h with sr := hsr, bitcnt := rfl, state := rfl, sr_clk_en := rfl, tmr_ie := rfl }
  · exact { h with sr := hsr, bitcnt := rfl }

/-- The verdict on a frame is none of the receiver's own state. -/
theorem SameForReceiver.judgeFrame {s t : State} (h : SameForReceiver s t) (rx : Level)
    (raw raw' : Byte) : SameForReceiver (judgeFrame rx raw s) (judgeFrame rx raw' t) := by
  rw [judgeFrame_frame rx raw s, judgeFrame_frame rx raw' t]
  exact { h with }

theorem SameForReceiver.validate {s t : State} (h : SameForReceiver s t) (rx : Level) :
    SameForReceiver (validate rx s) (validate rx t) := by
  have hstop : SameForReceiver (timerStop { s with tmr_ie := false })
      (timerStop { t with tmr_ie := false }) :=
    { h with tmr_ie := rfl, tmr_run := rfl, tcnt := rfl }
  exact { hstop.judgeFrame rx s.sr t.sr with state := rfl, edge_en := rfl }

theorem SameForReceiver.handleEvent {s t : State} (h : SameForReceiver s t) (cmp : Bool)
    (rx : Level) : SameForReceiver (handleEvent cmp rx s) (handleEvent cmp rx t) := by
  unfold Machine.handleEvent
  rw [← h.state, ← h.sr_clk_en, ← h.tmr_ie]
  cases s.state with
  | idle => exact h.detectEdge rx
  | sampling =>
    dsimp only
    split
    · exact h.shiftIn rx
    · exact h
  | validatingFrame =>
    dsimp only
    split
    · exact h.validate rx
    · exact h

/-- A tick of either block leaves their receivers agreeing. -/
theorem SameForReceiver.tick {rx : Level} {s s' t t' : State} (h : SameForReceiver s s')
    (ht : exec (.tick rx) s = .next t) (ht' : exec (.tick rx) s' = .next t') :
    SameForReceiver t t' := by
  obtain rfl := Host.Outcome.next.inj ht
  obtain rfl := Host.Outcome.next.inj ht'
  obtain ⟨hcmp, hadv⟩ := h.timerAdvance
  rw [hcmp]
  exact { hadv.handleEvent _ rx with rx_prev := rfl }

/-- A command other than `BEGIN` leaves the receiver's own state alone. -/
theorem SameForReceiver.command {i : Instr} {s s' t : State} (h : SameForReceiver s s')
    (hi : ∀ rx, i ≠ .tick rx) (hb : i ≠ .begin) (ht : exec i s = .next t) :
    SameForReceiver t s' := by
  rcases command_cases i s t hi ht with
    ⟨hbegin, _⟩ | ⟨_, _, rfl⟩ | ⟨_, rfl⟩ | ⟨_, _, _, _, _, rfl, _⟩
  · exact absurd hbegin hb
  all_goals exact { h with }

theorem isTick_eq_false {i : Instr} (hi : ∀ rx, i ≠ .tick rx) : isTick i = false := by
  cases i with
  | tick rx => exact absurd rfl (hi rx)
  | _ => rfl

/-- Settles O49: the two runs take each tick together (`SameForReceiver.tick`), and the commands of the
one leave its receiver alone (`SameForReceiver.command`). -/
theorem commandsNeverDisturbReceiver : Obligations.CommandsNeverDisturbReceiver := by
  intro es s s' t t' h hb hrun hrun'
  induction es generalizing s s' with
  | nil =>
    obtain rfl := Host.Outcome.next.inj hrun
    obtain rfl := Host.Outcome.next.inj hrun'
    exact h
  | cons i es ih =>
    obtain ⟨hi, hes⟩ := List.ne_and_not_mem_of_not_mem_cons hb
    obtain ⟨u, hu, hrest⟩ := runEvents_cons_eq_next.mp hrun
    by_cases htick : ∃ rx, i = .tick rx
    · obtain ⟨rx, rfl⟩ := htick
      rw [List.filter_cons_of_pos rfl] at hrun'
      obtain ⟨u', hu', hrest'⟩ := runEvents_cons_eq_next.mp hrun'
      exact ih u u' (h.tick hu hu') hes hrest hrest'
    · have hcmd : ∀ rx, i ≠ .tick rx := fun rx e => htick ⟨rx, e⟩
      rw [List.filter_cons_of_neg (by simp [isTick_eq_false hcmd])] at hrun'
      exact ih u s' (h.command hcmd hi.symm hu) hes hrest hrun'

end Sys2Proof.Machine
end
